-- ==== Sys2Proof/Word.lean ====
section
/-! DEFINITION. The word types of the block (10_state.md R17, R20, R21; 30_encoding.md R55): every value is unsigned (00_scope.md R13). -/

namespace Sys2Proof

/-- An 8-bit value: a general register, a timer, a memory byte, the immediate NN. -/
abbrev Byte := BitVec 8

/-- A 16-bit value: I, PC, a stack slot, the instruction word. -/
abbrev Word := BitVec 16

/-- A 4-bit value: the family nibble F, the immediate N, an ignored nibble. -/
abbrev Nibble := BitVec 4

/-- The index of a general register, the fields X and Y (R17: every index is in 0 to 15). -/
abbrev Reg := BitVec 4

/-- The 12-bit address field NNN (R55). -/
abbrev Addr := BitVec 12

/-- VF, the flag register (R18). -/
abbrev Reg.vf : Reg := 0xF#4

end Sys2Proof
end

