-- ==== Sys2Proof/Machine/Flags.lean ====
section
/-! DEFINITION. The values VF takes as a flag (10_state.md R18): always 0 or 1, never depending on the old VF as a carry or borrow
input (43_alu.md R85). -/

namespace Sys2Proof.Machine

/-- A flag as a register value. -/
def flagByte (b : Bool) : Byte := if b then 1#8 else 0#8

/-- ADD (43_alu.md R90): 1 when the sum exceeds 255. -/
def carryFlag (a b : Byte) : Byte := flagByte (decide (a.toNat + b.toNat > 255))

/-- SUB and SUBN (R91, R93): 1 when no borrow occurs, the minuend being at least the subtrahend. -/
def noBorrowFlag (minuend subtrahend : Byte) : Byte := flagByte (decide (minuend.toNat ≥ subtrahend.toNat))

/-- SHR (R92): the bit shifted out, bit 0. -/
def shiftedOutLow (src : Byte) : Byte := src &&& 1#8

/-- SHL (R94): the bit shifted out, bit 7. -/
def shiftedOutHigh (src : Byte) : Byte := src >>> 7

/-- DRW (45_draw.md R99): 1 when some pixel went from on to off. -/
def collisionFlag (collided : Bool) : Byte := flagByte collided

end Sys2Proof.Machine
end

