-- ==== Sys2Proof/Syntax.lean ====
section
/-! DEFINITION. The instructions: one constructor per row of spec/opcode_table.json, in the order of 30_encoding.md R59, holding the
row's fields (R55, R57). -/

namespace Sys2Proof

/-- The 34 instructions. A field the instruction ignores (the low nibble of 5XY? and 9XY?, R62) is kept, so that no bit of a
word is lost (log 13). -/
inductive Instr where
  | cls                                          -- 00E0  CLS
  | ret                                          -- 00EE  RET
  | jp (nnn : Addr)                              -- 1NNN  JP NNN
  | call (nnn : Addr)                            -- 2NNN  CALL NNN
  | seImm (x : Reg) (nn : Byte)                  -- 3XNN  SE Vx, NN
  | sneImm (x : Reg) (nn : Byte)                 -- 4XNN  SNE Vx, NN
  | seReg (x y : Reg) (ignored : Nibble)         -- 5XY?  SE Vx, Vy
  | ldImm (x : Reg) (nn : Byte)                  -- 6XNN  LD Vx, NN
  | addImm (x : Reg) (nn : Byte)                 -- 7XNN  ADD Vx, NN
  | ldReg (x y : Reg)                            -- 8XY0  LD Vx, Vy
  | orReg (x y : Reg)                            -- 8XY1  OR Vx, Vy
  | andReg (x y : Reg)                           -- 8XY2  AND Vx, Vy
  | xorReg (x y : Reg)                           -- 8XY3  XOR Vx, Vy
  | addReg (x y : Reg)                           -- 8XY4  ADD Vx, Vy
  | subReg (x y : Reg)                           -- 8XY5  SUB Vx, Vy
  | shrReg (x y : Reg)                           -- 8XY6  SHR Vx, Vy
  | subnReg (x y : Reg)                          -- 8XY7  SUBN Vx, Vy
  | shlReg (x y : Reg)                           -- 8XYE  SHL Vx, Vy
  | sneReg (x y : Reg) (ignored : Nibble)        -- 9XY?  SNE Vx, Vy
  | ldI (nnn : Addr)                             -- ANNN  LD I, NNN
  | jpV0 (nnn : Addr) (x : Reg)                  -- BNNN  JP V0, NNN; the row's X overlaps NNN[11:8]
  | rnd (x : Reg) (nn : Byte)                    -- CXNN  RND Vx, NN
  | drw (x y : Reg) (n : Nibble)                 -- DXYN  DRW Vx, Vy, N
  | skp (x : Reg)                                -- EX9E  SKP Vx
  | sknp (x : Reg)                               -- EXA1  SKNP Vx
  | ldVxDT (x : Reg)                             -- FX07  LD Vx, DT
  | ldVxK (x : Reg)                              -- FX0A  LD Vx, K
  | ldDTVx (x : Reg)                             -- FX15  LD DT, Vx
  | ldSTVx (x : Reg)                             -- FX18  LD ST, Vx
  | addI (x : Reg)                               -- FX1E  ADD I, Vx
  | ldF (x : Reg)                                -- FX29  LD F, Vx
  | ldB (x : Reg)                                -- FX33  LD B, Vx
  | storeRegs (x : Reg)                          -- FX55  LD [I], Vx
  | loadRegs (x : Reg)                           -- FX65  LD Vx, [I]
  deriving DecidableEq, Repr

end Sys2Proof
end

