-- ==== Sys2Proof/WellFormed.lean ====
section
/-! DEFINITION. Which terms of `Instr` stand for an instruction word. The field types carry the widths of 30_encoding.md R55, so the
one thing left to check is the overlap of two fields of one row. -/

namespace Sys2Proof

/-- R59, opcode_table.json: the row of JP V0, NNN has the fields NNN and X, and X is NNN[11:8]. Every other row's fields are
disjoint and may hold any value (R56, R62). -/
def Instr.wellFormed : Instr → Bool
  | .jpV0 nnn x => x == nnn.extractLsb' 8 4
  | .cls | .ret | .jp _ | .call _ | .seImm _ _ | .sneImm _ _ | .seReg _ _ _ | .ldImm _ _ | .addImm _ _ => true
  | .ldReg _ _ | .orReg _ _ | .andReg _ _ | .xorReg _ _ | .addReg _ _ | .subReg _ _ | .shrReg _ _ => true
  | .subnReg _ _ | .shlReg _ _ | .sneReg _ _ _ | .ldI _ | .rnd _ _ | .drw _ _ _ | .skp _ | .sknp _ => true
  | .ldVxDT _ | .ldVxK _ | .ldDTVx _ | .ldSTVx _ | .addI _ | .ldF _ | .ldB _ | .storeRegs _ | .loadRegs _ => true

end Sys2Proof
end

