-- ==== Sys2Proof/Config.lean ====
section
/-! DEFINITION. What is fixed for a run (00_scope.md R9, R10, R11) and the free values: constants with no body, of which
nothing can be proved (log 2, 4, 10). -/

namespace Sys2Proof

/-- An input snapshot: 16 booleans, one per key, true while the key is held (00_scope.md R6, 60_exceptions.md R132). -/
abbrev Keys := Vector Bool 16

/-- The three behaviour switches of R10. DESIGN CHOICE (log 3): they are carried in `State.cfg`, so that a statement over
every state holds for every setting of them. -/
structure Switches where
  /-- SHIFT_USES_VY: SHR and SHL read V[Y], else V[X]. -/
  shiftUsesVy : Bool
  /-- JUMP_OFFSET_USES_V0: JP V0, NNN adds V[0], else the register named by X. -/
  jumpOffsetUsesV0 : Bool
  /-- DRAW_XOR_COLLISION: DRW composes by XOR and reports collisions in VF, else it overwrites. -/
  drawXorCollision : Bool
  deriving DecidableEq, Repr

/-- The defaults R10 gives: all three true. -/
def Switches.default : Switches :=
  { shiftUsesVy := true, jumpOffsetUsesV0 := true, drawXorCollision := true }

/-- One `SetPixel(x, y, on)` request to the Display Sink (45_draw.md R103). -/
structure PixelRequest where
  x : Fin 64
  y : Fin 32
  on : Bool
  deriving DecidableEq, Repr

namespace Config

/-- MEM_SIZE (R9). -/
def memSize : Nat := 4096

/-- PROGRAM_BASE (R9): where `load_program` copies the program, and PC at reset. -/
def programBase : Nat := 0x200

/-- MAX_ROM (R9): 4096 - 512 bytes. -/
def maxRom : Nat := 3584

/-- FONT_BASE (R9). -/
def fontBase : Nat := 0x050

/-- FREE VALUE (log 4): UNITS_PER_TICK less one. R11 leaves UNITS_PER_TICK an open positive parameter. -/
opaque unitsPerTickPred : Nat

/-- UNITS_PER_TICK (R11): the number of time units in 1/60 second, positive and otherwise unknown. -/
def unitsPerTick : Nat := unitsPerTickPred + 1

/-- FREE VALUE (log 2): the key snapshot of the step with this index, where the caller has scheduled none. -/
opaque freeKeys : Nat → Keys

/-- FREE VALUE (log 2): the random byte of the step with this index (R11, 44_index_jump_random.md R97). -/
opaque freeRand : Nat → Byte

/-- FREE VALUE (log 2): the time units the caller lets elapse after the step with this index (00_scope.md R8). -/
opaque freeElapsed : Nat → Nat

/-- FREE VALUE (log 10): the requests the draw with this index sends first (R103: their number and order are not specified). -/
opaque freeRequests : Nat → List PixelRequest

end Config

end Sys2Proof
end

