-- ==== Sys2Proof/Machine/State.lean ====
section
/-! DEFINITION. The state of the block as plain data (10_state.md), its faults and outputs, the operations a caller may invoke
(00_scope.md R6), and the state after reset (10_state.md R34). -/

namespace Sys2Proof.Machine

/-- The fault kinds of 60_exceptions.md R116. The instruction or fetch that raises one latches it in `State.fault` and the
machine goes to a next state (R118); `step` answers `Outcome.fault` with the latched kind only when a step is taken while
FAULT is set and the caller has scheduled nothing more (40_step.md R65; log 8). That stop is SAFE: the spec's block changes
nothing in such a step. -/
inductive Fault where
  /-- Raised by a fetch (R67), DRW, LD B, LD [I] and LD Vx, [I] at an address of 4096 or more, with the first such address.
  SAFE: the spec raises it in exactly these cases (20_memory.md R40, R42). -/
  | memoryFault (address : Nat)
  /-- Raised by CALL with SP = 16 (41_flow.md R78). SAFE: the spec's own fault. -/
  | stackOverflow
  /-- Raised by RET with SP = 0 (41_flow.md R76). SAFE: the spec's own fault. -/
  | stackUnderflow
  /-- Raised by SKP and SKNP with V[X] of 16 or more, with that value (46_keys.md R104). SAFE: the spec's own fault. -/
  | registerIndexOutOfRange (value : Byte)
  deriving DecidableEq, Repr

/-- Why the model gives an instruction no meaning. -/
inductive Refusal where
  /-- An instruction with no meaning yet, by its mnemonic in the opcode table. Raised by no arm of `exec`: all 34 have their
  meaning. SAFE where it stood: the model would stop where the block goes on. -/
  | notModelled (mnemonic : String)
  deriving DecidableEq, Repr

/-- What a step returns (00_scope.md R7). `Halted` is left out: the block never returns it (60_exceptions.md R122). -/
inductive StepResult where
  | continued
  | faulted (kind : Fault)
  deriving DecidableEq, Repr

/-- What `load_program` returns (70_reset_and_hazards.md R137). -/
inductive LoadResult where
  | ok
  | loadError
  deriving DecidableEq, Repr

/-- One thing the block hands out: a display request or a diagnostic of a step's output stream (00_scope.md R15, 45_draw.md
R103, 60_exceptions.md R123), or the value an operation returns (00_scope.md R6). -/
inductive Output where
  /-- The request `Clear` to the Display Sink. -/
  | clear
  /-- A request `SetPixel(x, y, on)` to the Display Sink. -/
  | setPixel (request : PixelRequest)
  /-- The diagnostic `UnknownOpcode(w, a)`: the word and the address it was fetched from. -/
  | unknownOpcode (w : Word) (address : Word)
  /-- The value returned by `step`. -/
  | stepReturned (result : StepResult)
  /-- The value returned by `load_program`. -/
  | loadReturned (result : LoadResult)
  /-- The value returned by `tick`: `beep`. -/
  | tickReturned (beep : Bool)
  deriving DecidableEq, Repr

/-- The four operations of the block (00_scope.md R6), with their inputs. -/
inductive CallerOp where
  | reset
  | loadProgram (bytes : List Byte)
  | step (keys : Keys) (rand : Byte)
  | tick (elapsed : Nat)
  deriving DecidableEq, Repr

/-- Memory as (address, byte) cells in one canonical form (Machine/Memory.lean). An unlisted address reads as its reset byte. -/
abbrev Memory := List Host.Cell

/-- The frame buffer, `fb[x][y]` for column x and row y (10_state.md R28): a grid of booleans, true meaning on. -/
abbrev FrameBuffer := Vector (Vector Bool 32) 64

/-- Every piece of state of 10_state.md, then the model's own four fields. -/
structure State where
  /-- V[0] to V[15] (R17). -/
  v : Vector Byte 16
  /-- I (R20). -/
  i : Word
  /-- PC (R21). -/
  pc : Word
  /-- SP, the number of occupied slots, 0 to 16 (R23). -/
  sp : Fin 17
  /-- S[0] to S[15] (R22). -/
  stack : Vector Word 16
  /-- DT (R24). -/
  dt : Byte
  /-- ST (R25). -/
  st : Byte
  /-- ACC (R26). -/
  acc : Nat
  /-- WAIT (R27). -/
  wait : Bool
  /-- WREG (R27). -/
  wreg : Reg
  /-- MEM (R30). -/
  mem : Memory
  /-- FB (R28). -/
  fb : FrameBuffer
  /-- FAULT (R29). -/
  fault : Option Fault
  /-- The switches of R10; no operation changes them. DESIGN CHOICE (log 3). -/
  cfg : Switches
  /-- The operations the caller has scheduled, the next one first. DESIGN CHOICE (log 1). -/
  caller : List CallerOp
  /-- The index of the next free value, advanced by every operation. DESIGN CHOICE (log 2). -/
  ix : Nat
  /-- What the block handed out during the last machine step, oldest first. DESIGN CHOICE (log 9). -/
  out : List Output
  deriving DecidableEq, Repr

/-- The frame buffer with every pixel off. -/
def FrameBuffer.blank : FrameBuffer := Vector.replicate 64 (Vector.replicate 32 false)

/-- The reset values of R34 (70_reset_and_hazards.md R135). Memory lists nothing: every address reads as its reset byte. The
last four fields are the model's own (log 1, 2, 3, 9). -/
def State.reset : State where
  v := Vector.replicate 16 0#8
  i := 0#16
  pc := 0x200#16
  sp := 0
  stack := Vector.replicate 16 0#16
  dt := 0#8
  st := 0#8
  acc := 0
  wait := false
  wreg := 0#4
  mem := []
  fb := FrameBuffer.blank
  fault := none
  cfg := Switches.default
  caller := []
  ix := 0
  out := []

end Sys2Proof.Machine
end

