-- ==== Sys2Proof/Machine/Display.lean ====
section
/-! DEFINITION. The frame buffer (10_state.md R28) and the requests to the Display Sink that mirrors it (45_draw.md R103). -/

namespace Sys2Proof.Machine

/-- FB[x][y]. -/
def FrameBuffer.pixel (fb : FrameBuffer) (x : Fin 64) (y : Fin 32) : Bool := fb[x][y]

/-- FB[x][y] <- on. -/
def FrameBuffer.setPixel (fb : FrameBuffer) (x : Fin 64) (y : Fin 32) (on : Bool) : FrameBuffer :=
  fb.set x (fb[x].set y on)

/-- What a request does to the sink's grid. -/
def PixelRequest.applyTo (r : PixelRequest) (grid : FrameBuffer) : FrameBuffer :=
  FrameBuffer.setPixel grid r.x r.y r.on

/-- The sink's grid after a list of requests, sent in order. -/
def sinkAfter (requests : List PixelRequest) (grid : FrameBuffer) : FrameBuffer :=
  requests.foldl (fun g r => PixelRequest.applyTo r g) grid

/-- What one output of the block does to the sink's grid (R103): the sink knows `Clear` and `SetPixel`. -/
def Output.applyTo (o : Output) (grid : FrameBuffer) : FrameBuffer :=
  match o with
  | .clear => FrameBuffer.blank
  | .setPixel r => PixelRequest.applyTo r grid
  | .unknownOpcode _ _ => grid
  | .stepReturned _ => grid
  | .loadReturned _ => grid
  | .tickReturned _ => grid

/-- The sink's grid after a stream of outputs. -/
def mirror (outputs : List Output) (grid : FrameBuffer) : FrameBuffer :=
  outputs.foldl (fun g o => Output.applyTo o g) grid

/-- Every pixel coordinate. -/
def allPixels : List (Fin 64 × Fin 32) :=
  (List.finRange 64).flatMap fun x => (List.finRange 32).map fun y => (x, y)

/-- The requests that bring the sink's grid `grid` to `target`: one for each pixel that differs. -/
def repairs (grid target : FrameBuffer) : List PixelRequest :=
  (allPixels.filter fun p => grid.pixel p.1 p.2 != target.pixel p.1 p.2).map fun p =>
    { x := p.1, y := p.2, on := target.pixel p.1 p.2 }

/-- The `SetPixel` requests of the draw with index `ix`: R103 fixes their effect on the sink's grid and neither their number
nor their order. FREE VALUE (log 10): any requests at all, then those still needed to reach the effect; every sequence with the
right effect is one of these. -/
def drawRequests (ix : Nat) (before after : FrameBuffer) : List PixelRequest :=
  Config.freeRequests ix ++ repairs (sinkAfter (Config.freeRequests ix) before) after

end Sys2Proof.Machine
end

