-- ==== Sys2Proof/Machine/Ops.lean ====
section
/-! DEFINITION. The named operations over the state: registers, program counter, stack, memory through I, taking a fault, the step's
inputs and outputs, the timer unit, reset, program load, and the fetch. -/

namespace Sys2Proof.Machine

/-! ## Registers (10_state.md) -/

/-- V[x]. -/
def State.reg (s : State) (x : Reg) : Byte := s.v[x.toNat]'x.isLt

/-- V[x] <- b. -/
def State.setReg (x : Reg) (b : Byte) (s : State) : State := { s with v := s.v.set x.toNat b x.isLt }

/-- 43_alu.md R85: the result goes to V[x] first, the flag to VF last, so that the flag stays when x is 0xF. -/
def State.setRegFlag (x : Reg) (b flag : Byte) (s : State) : State := (s.setReg x b).setReg Reg.vf flag

/-- I <- w. -/
def State.setI (w : Word) (s : State) : State := { s with i := w }

/-- PC <- w. -/
def State.setPc (w : Word) (s : State) : State := { s with pc := w }

/-- DT <- b. -/
def State.setDt (b : Byte) (s : State) : State := { s with dt := b }

/-- ST <- b. -/
def State.setSt (b : Byte) (s : State) : State := { s with st := b }

/-- `Skip` (40_step.md R69), taken when `c` holds: 2 more on the already advanced PC. -/
def State.skipIf (c : Bool) (s : State) : State := { s with pc := if c then s.pc + 2#16 else s.pc }

/-! ## The call stack (10_state.md R22, R23) -/

/-- S[k]. Only slots 0 to 15 exist; no instruction names another. -/
def State.slot (s : State) (k : Nat) : Word := if h : k < 16 then s.stack[k] else 0#16

/-- CALL's push of PC and jump (41_flow.md R78), with a free slot. -/
def State.pushJump (target : Word) (s : State) : State :=
  { s with stack := s.stack.setIfInBounds s.sp.val s.pc, sp := Fin.ofNat 17 (s.sp.val + 1), pc := target }

/-- RET's pop into PC (41_flow.md R76), with an occupied slot; the slot keeps its value (10_state.md R22). -/
def State.popJump (s : State) : State :=
  { s with sp := Fin.ofNat 17 (s.sp.val - 1), pc := s.slot (s.sp.val - 1) }

/-! ## Faults and outputs -/

/-- R116: the codes the spec gives the fault kinds. -/
def Fault.code : Fault → Nat
  | .memoryFault _ => 1
  | .stackOverflow => 2
  | .stackUnderflow => 3
  | .registerIndexOutOfRange _ => 4

/-- A fault found before PC is advanced (the fetch's): FAULT is set, the step's outputs are discarded, and nothing else
changes (60_exceptions.md R118). -/
def State.latch (k : Fault) (s : State) : State := { s with fault := some k, out := [] }

/-- `raise` by an executing instruction (00_scope.md R15, 60_exceptions.md R118): every element as before the step, so PC goes
back over the advance of 40_step.md R68; FAULT is set and the step's outputs are discarded. No instruction writes anything
before it raises. There is no trap entry and no return (R119, R120). -/
def State.raise (k : Fault) (s : State) : State := State.latch k { s with pc := s.pc - 2#16 }

/-- `Emit` (00_scope.md R15). -/
def State.emit (o : Output) (s : State) : State := { s with out := s.out ++ [o] }

/-- 40_step.md R72: a step has returned `Faulted` exactly when FAULT is set after it, else `Continued`. -/
def State.stepResult (s : State) : StepResult :=
  match s.fault with
  | some k => .faulted k
  | none => .continued

/-- 60_exceptions.md R129: the sound timer's output. -/
def State.beep (s : State) : Bool := s.st != 0#8

/-! ## Memory through I (20_memory.md R42) -/

/-- An instruction that accesses the `n` bytes from I: every address is checked before any state changes. -/
def State.throughI (n : Nat) (body : State → State) (s : State) : Host.Outcome State Fault Refusal :=
  match firstInvalid s.i.toNat n with
  | some a => .next (s.raise (.memoryFault a))
  | none => .next (body s)

/-- The `n` bytes from I. -/
def State.bytesAtI (s : State) (n : Nat) : List Byte := s.mem.readBytes s.i.toNat n

/-- One-byte writes of `bs` from I upwards. -/
def State.storeAtI (bs : List Byte) (s : State) : State := { s with mem := s.mem.writeBytes s.i.toNat bs }

/-! ## The frame buffer (10_state.md R28, 45_draw.md R103) -/

/-- CLS: every pixel off, and the request `Clear` (41_flow.md R75). -/
def State.clearDisplay (s : State) : State := State.emit .clear { s with fb := FrameBuffer.blank }

/-- A draw's new frame buffer, and the requests that bring the sink to it. -/
def State.showDrawn (after : FrameBuffer) (s : State) : State :=
  { s with fb := after, out := s.out ++ (drawRequests s.ix s.fb after).map Output.setPixel }

/-! ## The step's inputs (00_scope.md R6, 40_step.md R73) -/

/-- The key snapshot of the current step: the caller's, or a free value where it has scheduled no step (log 1, 2). -/
def State.keys (s : State) : Keys :=
  match s.caller with
  | .step keys _ :: _ => keys
  | _ => Config.freeKeys s.ix

/-- The random byte of the current step, likewise. -/
def State.rand (s : State) : Byte :=
  match s.caller with
  | .step _ rand :: _ => rand
  | _ => Config.freeRand s.ix

/-- keys[k] for a key index below 16. -/
def State.keyHeld (s : State) (k : Byte) : Bool := s.keys.toList.getD k.toNat false

/-- The smallest held key (40_step.md R66). -/
def firstHeld (keys : Keys) : Option (Fin 16) := (List.finRange 16).find? fun k => keys[k]

/-- LD Vx, K (47_misc.md R108): WAIT is set with its target register. -/
def State.beginWait (x : Reg) (s : State) : State := { s with wait := true, wreg := x }

/-- The wait-for-key phase (40_step.md R66): the first held key goes to V[WREG] and WAIT is cleared; with none, nothing changes. -/
def State.resolveWait (s : State) : State :=
  match firstHeld s.keys with
  | some k => { s.setReg s.wreg (BitVec.ofNat 8 k.val) with wait := false }
  | none => s

/-! ## Fetch and advance (40_step.md R67, R68) -/

/-- The word at PC, or the first address of the two that is invalid. -/
def State.fetchWord (s : State) : Except Nat Word :=
  match firstInvalid s.pc.toNat 2 with
  | some a => .error a
  | none => .ok (wordOfBytes (s.mem.read s.pc.toNat) (s.mem.read (s.pc.toNat + 1)))

/-- The beginning of a step: its output stream is empty. -/
def State.quiet (s : State) : State := { s with out := [] }

/-- The state an instruction executes in: PC advanced by 2 after the fetch (R68), the output stream empty. -/
def State.advanced (s : State) : State := { s with pc := s.pc + 2#16, out := [] }

/-- An unknown opcode (R71): only the PC advance, and the diagnostic with the word and its address. -/
def State.unknown (w : Word) (s : State) : State := State.emit (.unknownOpcode w s.pc) s.advanced

/-! ## The other operations of the block -/

/-- A timer after `k` decrements, clamped at 0 (10_state.md R24, R25). -/
def countDown (t : Byte) (k : Nat) : Byte := if t = 0#8 then 0#8 else BitVec.ofNat 8 (t.toNat - k)

/-- `tick(elapsed)` (60_exceptions.md R127): the accumulated units become decrements of both timers. It returns `beep` of the
state after. It runs in every state (R128). -/
def State.tick (elapsed : Nat) (s : State) : State :=
  { s with
    acc := (s.acc + elapsed) % Config.unitsPerTick
    dt := countDown s.dt ((s.acc + elapsed) / Config.unitsPerTick)
    st := countDown s.st ((s.acc + elapsed) / Config.unitsPerTick) }

/-- `reset()` (70_reset_and_hazards.md R135), in any state: every element at its reset value. What is not the block's state
stays: the switches (00_scope.md R10), the caller's schedule and the index of the next free value (log 19). -/
def State.resetBlock (s : State) : State :=
  { State.reset with cfg := s.cfg, caller := s.caller, ix := s.ix }

/-- `load_program(bytes)` (70_reset_and_hazards.md R137): the bytes at 0x200, or LoadError and no change. -/
def State.loadProgram (bytes : List Byte) (s : State) : State × LoadResult :=
  if bytes.length > Config.maxRom then (s, .loadError)
  else ({ s with mem := s.mem.writeBytes Config.programBase bytes }, .ok)

/-! ## The end of an operation (log 1, 2, 9) -/

/-- The caller goes on to its next operation, and the next free value is a fresh one. -/
def State.nextOp (s : State) : State := { s with caller := s.caller.tail, ix := s.ix + 1 }

/-- A scheduled step is over: it returns its result. -/
def State.endStep (s : State) : State := (s.emit (.stepReturned s.stepResult)).nextOp

/-- A free caller's step is over: it returns its result, and then some time, possibly none, is ticked. -/
def State.endFreeStep (s : State) : State :=
  let t := (s.emit (.stepReturned s.stepResult)).tick (Config.freeElapsed s.ix)
  (t.emit (.tickReturned t.beep)).nextOp

/-- A scheduled `tick`. -/
def State.doTick (elapsed : Nat) (s : State) : State :=
  let t := s.quiet.tick elapsed
  (t.emit (.tickReturned t.beep)).nextOp

/-- A scheduled `load_program`. -/
def State.doLoad (bytes : List Byte) (s : State) : State :=
  let r := s.quiet.loadProgram bytes
  (r.1.emit (.loadReturned r.2)).nextOp

/-- A scheduled `reset()`: it returns nothing. -/
def State.doReset (s : State) : State := s.resetBlock.nextOp

/-- The outcome with its next state passed through `f`. -/
def mapNext (f : State → State) : Host.Outcome State Fault Refusal → Host.Outcome State Fault Refusal
  | .next s => .next (f s)
  | .fault k => .fault k
  | .refused r => .refused r

/-! ## Placing a word where the next fetch reads it (log 11) -/

/-- The schedule with a step next: kept where it already is one, else emptied (a free caller steps). -/
def stepNext : List CallerOp → List CallerOp
  | .step keys rand :: rest => .step keys rand :: rest
  | _ => []

/-- PC where a word can be fetched: kept if it can, else the entry point 0x200. -/
def fetchablePc (pc : Word) : Word := if pc.toNat + 2 ≤ Config.memSize then pc else 0x200#16

/-- The state with the two bytes at the next fetch, and nothing in the way of that fetch: no fault, no wait, a step next. -/
def State.placeWord (w : Word) (s : State) : State :=
  let pc := fetchablePc s.pc
  { s with
    pc := pc, mem := s.mem.writeBytes pc.toNat (bytesOfWord w), fault := none, wait := false, caller := stepNext s.caller }

end Sys2Proof.Machine
end

