-- ==== Sys2Proof/Machine/Operands.lean ====
section
/-! DEFINITION. The operand forms that are more than a register or an immediate: the switched sources of 00_scope.md R10, the widening of
NNN and V[X], the font glyph address, the decimal digits, the register lists of the bulk transfers. -/

namespace Sys2Proof.Machine

/-- The source of SHR and SHL: V[y] when SHIFT_USES_VY, else V[x] (43_alu.md R92, R94). -/
def State.shiftSource (x y : Reg) (s : State) : Byte := if s.cfg.shiftUsesVy then s.reg y else s.reg x

/-- The base of JP V0, NNN: V[0] when JUMP_OFFSET_USES_V0, else V[x] (44_index_jump_random.md R96). -/
def State.jumpBase (x : Reg) (s : State) : Byte := if s.cfg.jumpOffsetUsesV0 then s.reg 0x0#4 else s.reg x

/-- NNN zero-extended to 16 bits (30_encoding.md R56). -/
def addrWord (nnn : Addr) : Word := nnn.setWidth 16

/-- A register value zero-extended to 16 bits (00_scope.md R13). -/
def byteWord (b : Byte) : Word := b.setWidth 16

/-- The address of the glyph for the low nibble of `b` (47_misc.md R112): 0x050 + 5 * d. -/
def glyphAddress (b : Byte) : Word := BitVec.ofNat 16 (Config.fontBase + 5 * (b &&& 0x0F#8).toNat)

/-- The three decimal digits, hundreds first (47_misc.md R113). -/
def decimalDigits (b : Byte) : List Byte :=
  [BitVec.ofNat 8 (b.toNat / 100), BitVec.ofNat 8 (b.toNat / 10 % 10), BitVec.ofNat 8 (b.toNat % 10)]

/-- V[0] to V[x], in order (47_misc.md R114). -/
def State.regsUpTo (x : Reg) (s : State) : List Byte := s.v.toList.take (x.toNat + 1)

/-- V[0] to V[x] from the bytes at I upwards, the other registers kept (47_misc.md R115). -/
def State.loadRegsAtI (x : Reg) (s : State) : State :=
  { s with v := Vector.ofFn fun k => if k.val ≤ x.toNat then s.mem.read (s.i.toNat + k.val) else s.v[k] }

end Sys2Proof.Machine
end

