-- ==== Sys2Proof/Machine/Draw.lean ====
section
/-! DEFINITION. Family 0xD, the drawing engine (45_draw.md). -/

namespace Sys2Proof.Machine

/-- One pixel of a sprite (R98 to R100): composed by XOR, noting a collision, or overwritten. -/
def blitPixel (useXor : Bool) (x : Fin 64) (y : Fin 32) (bit : Bool) (drawn : FrameBuffer × Bool) : FrameBuffer × Bool :=
  if useXor then (drawn.1.setPixel x y (drawn.1.pixel x y ^^ bit), drawn.2 || (bit && drawn.1.pixel x y))
  else (drawn.1.setPixel x y bit, drawn.2)

/-- One sprite row at screen row `y` from column `ox`: bit 7 first, each column wrapping (R98, R101). -/
def blitRow (useXor : Bool) (ox : Nat) (y : Fin 32) (row : Byte) (drawn : FrameBuffer × Bool) : FrameBuffer × Bool :=
  (List.range 8).foldl (fun d c => blitPixel useXor (Fin.ofNat 64 (ox + c)) y (row.getLsbD (7 - c)) d) drawn

/-- The sprite rows from screen row `oy` downwards, each row wrapping (R98, R101). -/
def blitRows (useXor : Bool) (ox oy : Nat) : List Byte → FrameBuffer × Bool → FrameBuffer × Bool
  | [], drawn => drawn
  | row :: rows, drawn => blitRows useXor ox (oy + 1) rows (blitRow useXor ox (Fin.ofNat 32 oy) row drawn)

/-- The frame buffer a draw leaves, and whether a pixel collided; the origin is V[x], V[y] as they were before VF is written. -/
def State.drawn (x y : Reg) (n : Nat) (s : State) : FrameBuffer × Bool :=
  blitRows s.cfg.drawXorCollision (s.reg x).toNat (s.reg y).toNat (s.bytesAtI n) (s.fb, false)

/-- VF after a draw: written when DRAW_XOR_COLLISION (R99, R102), else left (R100). -/
def State.setCollision (collided : Bool) (s : State) : State :=
  if s.cfg.drawXorCollision then s.setReg Reg.vf (collisionFlag collided) else s

/-- The effect of a draw whose addresses are all valid. -/
def State.drawSprite (x y : Reg) (n : Nat) (s : State) : State :=
  (s.showDrawn (s.drawn x y n).1).setCollision (s.drawn x y n).2

/-- DRW Vx, Vy, N (R98): MemoryFault when a sprite byte's address is 4096 or more; with N = 0 there is none (R102). -/
def execDrw (x y : Reg) (n : Nibble) (s : State) : Host.Outcome State Fault Refusal :=
  s.throughI n.toNat (State.drawSprite x y n.toNat)

end Sys2Proof.Machine
end

