-- ==== Sys2Proof/Machine/Flow.lean ====
section
/-! DEFINITION. Families 0x0, 0x1, 0x2, 0x3, 0x4, 0x5 and 0x9 (41_flow.md). PC is already the address after the instruction
(40_step.md R68). -/

namespace Sys2Proof.Machine

/-- CLS (R75). -/
def execCls (s : State) : Host.Outcome State Fault Refusal := .next s.clearDisplay

/-- RET (R76): StackUnderflow when SP is 0. -/
def execRet (s : State) : Host.Outcome State Fault Refusal :=
  if s.sp.val = 0 then .next (s.raise .stackUnderflow) else .next s.popJump

/-- JP NNN (R77). -/
def execJp (nnn : Addr) (s : State) : Host.Outcome State Fault Refusal := .next (s.setPc (addrWord nnn))

/-- CALL NNN (R78): StackOverflow when SP is 16. -/
def execCall (nnn : Addr) (s : State) : Host.Outcome State Fault Refusal :=
  if s.sp.val = 16 then .next (s.raise .stackOverflow) else .next (s.pushJump (addrWord nnn))

/-- SE Vx, NN (R79). -/
def execSeImm (x : Reg) (nn : Byte) (s : State) : Host.Outcome State Fault Refusal :=
  .next (s.skipIf (s.reg x == nn))

/-- SNE Vx, NN (R80). -/
def execSneImm (x : Reg) (nn : Byte) (s : State) : Host.Outcome State Fault Refusal :=
  .next (s.skipIf (s.reg x != nn))

/-- SE Vx, Vy (R81). -/
def execSeReg (x y : Reg) (s : State) : Host.Outcome State Fault Refusal :=
  .next (s.skipIf (s.reg x == s.reg y))

/-- SNE Vx, Vy (R82). -/
def execSneReg (x y : Reg) (s : State) : Host.Outcome State Fault Refusal :=
  .next (s.skipIf (s.reg x != s.reg y))

end Sys2Proof.Machine
end

