-- ==== Sys2Proof/Machine/Immediate.lean ====
section
/-! DEFINITION. Families 0x6 and 0x7 (42_immediate.md). -/

namespace Sys2Proof.Machine

/-- LD Vx, NN (R83). -/
def execLdImm (x : Reg) (nn : Byte) (s : State) : Host.Outcome State Fault Refusal := .next (s.setReg x nn)

/-- ADD Vx, NN (R84): modulo 256, no flag. -/
def execAddImm (x : Reg) (nn : Byte) (s : State) : Host.Outcome State Fault Refusal :=
  .next (s.setReg x (s.reg x + nn))

end Sys2Proof.Machine
end

