-- ==== Sys2Proof/Machine/IndexJumpRandom.lean ====
section
/-! DEFINITION. Families 0xA, 0xB and 0xC (44_index_jump_random.md). -/

namespace Sys2Proof.Machine

/-- LD I, NNN (R95). -/
def execLdI (nnn : Addr) (s : State) : Host.Outcome State Fault Refusal := .next (s.setI (addrWord nnn))

/-- JP V0, NNN (R96): the sum is at most 0x10FE and is not masked. -/
def execJpV0 (nnn : Addr) (x : Reg) (s : State) : Host.Outcome State Fault Refusal :=
  .next (s.setPc (addrWord nnn + byteWord (s.jumpBase x)))

/-- RND Vx, NN (R97): the step's random byte, a free input. -/
def execRnd (x : Reg) (nn : Byte) (s : State) : Host.Outcome State Fault Refusal := .next (s.setReg x (s.rand &&& nn))

end Sys2Proof.Machine
end

