-- ==== Sys2Proof/Machine/Keys.lean ====
section
/-! DEFINITION. Family 0xE, the key tests (46_keys.md). The key is the value of V[x]; 16 or more names no key (R104). -/

namespace Sys2Proof.Machine

/-- SKP Vx (R105). -/
def execSkp (x : Reg) (s : State) : Host.Outcome State Fault Refusal :=
  if (s.reg x).toNat > 15 then .next (s.raise (.registerIndexOutOfRange (s.reg x)))
  else .next (s.skipIf (s.keyHeld (s.reg x)))

/-- SKNP Vx (R106). -/
def execSknp (x : Reg) (s : State) : Host.Outcome State Fault Refusal :=
  if (s.reg x).toNat > 15 then .next (s.raise (.registerIndexOutOfRange (s.reg x)))
  else .next (s.skipIf (!s.keyHeld (s.reg x)))

end Sys2Proof.Machine
end

