-- ==== Sys2Proof/Machine/Misc.lean ====
section
/-! DEFINITION. Family 0xF (47_misc.md): timers, key wait, index arithmetic, font, and memory through I. -/

namespace Sys2Proof.Machine

/-- LD Vx, DT (R107). -/
def execLdVxDT (x : Reg) (s : State) : Host.Outcome State Fault Refusal := .next (s.setReg x s.dt)

/-- LD Vx, K (R108): the key is taken by a later step, not by this one. -/
def execLdVxK (x : Reg) (s : State) : Host.Outcome State Fault Refusal := .next (s.beginWait x)

/-- LD DT, Vx (R109): ACC is not changed. -/
def execLdDTVx (x : Reg) (s : State) : Host.Outcome State Fault Refusal := .next (s.setDt (s.reg x))

/-- LD ST, Vx (R110): ACC is not changed. -/
def execLdSTVx (x : Reg) (s : State) : Host.Outcome State Fault Refusal := .next (s.setSt (s.reg x))

/-- ADD I, Vx (R111): modulo 65536, no flag. -/
def execAddI (x : Reg) (s : State) : Host.Outcome State Fault Refusal := .next (s.setI (s.i + byteWord (s.reg x)))

/-- LD F, Vx (R112). -/
def execLdF (x : Reg) (s : State) : Host.Outcome State Fault Refusal := .next (s.setI (glyphAddress (s.reg x)))

/-- LD B, Vx (R113): three bytes from I. -/
def execLdB (x : Reg) (s : State) : Host.Outcome State Fault Refusal :=
  s.throughI 3 (State.storeAtI (decimalDigits (s.reg x)))

/-- LD [I], Vx (R114): V[0] to V[x] from I; I is not changed. -/
def execStoreRegs (x : Reg) (s : State) : Host.Outcome State Fault Refusal :=
  s.throughI (x.toNat + 1) (State.storeAtI (s.regsUpTo x))

/-- LD Vx, [I] (R115): V[0] to V[x] from I; I is not changed. -/
def execLoadRegs (x : Reg) (s : State) : Host.Outcome State Fault Refusal :=
  s.throughI (x.toNat + 1) (State.loadRegsAtI x)

end Sys2Proof.Machine
end

