-- ==== Sys2Proof/Machine/Interp.lean ====
section
/-! DEFINITION. The step cycle (40_step.md) and the caller's operations (00_scope.md R6, R8). -/

namespace Sys2Proof.Machine

/-- The body of `step(keys, rand)` (40_step.md R64, in the check order of 60_exceptions.md R121): the fault latch (R65), the
wait-for-key phase (R66), the fetch (R67) with its fault, then the instruction on the advanced PC (R68, R70) or the unknown
opcode (R71). The inputs are `State.keys` and `State.rand`; the result returned is `State.stepResult` of the state after (R72). -/
def stepBody (s : State) : Host.Outcome State Fault Refusal :=
  match s.fault with
  | some _ => .next s.quiet
  | none =>
    if s.wait then .next s.quiet.resolveWait
    else
      match s.fetchWord with
      | .error a => .next (s.latch (.memoryFault a))
      | .ok w =>
        match decodeWord w with
        | .ok i => exec i s.advanced
        | .error _ => .next (s.unknown w)

/-- One operation of the block: the one the caller has scheduled next, or, where it has scheduled none, a `step` with a free
snapshot and random byte and then a `tick` of a free time, possibly none (log 1, 2). A step taken with FAULT set and nothing
scheduled answers `Outcome.fault` with the latched fault and changes nothing (R65; log 8). -/
def State.runNext (s : State) : Host.Outcome State Fault Refusal :=
  match s.caller with
  | .step _ _ :: _ => mapNext State.endStep (stepBody s)
  | .tick elapsed :: _ => .next (s.doTick elapsed)
  | .loadProgram bytes :: _ => .next (s.doLoad bytes)
  | .reset :: _ => .next s.doReset
  | [] =>
    match s.fault with
    | some k => .fault k
    | none => mapNext State.endFreeStep (stepBody s)

end Sys2Proof.Machine
end

