-- ==== Sys2Proof/Machine/Step.lean ====
section
/-! DEFINITION. The machine step, and the placing of a word at its next fetch. -/

namespace Sys2Proof.Machine

/-- One machine step: one operation of the block (`State.runNext`). -/
def step (s : State) : Host.Outcome State Fault Refusal := s.runNext

/-- `s` with the instruction whose bits are `w` (numbered as the opcode table numbers them) where `step` fetches next: see
`State.placeWord` (log 11). -/
def State.withFetchWord (s : State) (nbits w : Nat) : State := s.placeWord (tableWord nbits w)

end Sys2Proof.Machine
end

