-- ==== Sys2Proof/Safety.lean ====
section
/-! DEFINITION. The terms claims are stated in: which fields a change leaves alone, what the end of a step does, the safe states, the invariant of 10_state.md R35,
what a sprite covers (45_draw.md), the unknown words (30_encoding.md R60), and which instructions read the step's inputs (40_step.md R73). -/

namespace Sys2Proof.Machine

/-- The fields of `State`, by name. -/
inductive Field where
  | v | i | pc | sp | stack | dt | st | acc | wait | wreg | mem | fb | fault | cfg | caller | ix | out
  deriving DecidableEq, Repr

/-- The field reads the same in both states: registers one by one, memory byte by byte. -/
def Field.same (s t : State) : Field → Prop
  | .v => ∀ x, t.reg x = s.reg x
  | .i => t.i = s.i
  | .pc => t.pc = s.pc
  | .sp => t.sp = s.sp
  | .stack => ∀ k, t.slot k = s.slot k
  | .dt => t.dt = s.dt
  | .st => t.st = s.st
  | .acc => t.acc = s.acc
  | .wait => t.wait = s.wait
  | .wreg => t.wreg = s.wreg
  | .mem => ∀ a, t.mem.read a = s.mem.read a
  | .fb => ∀ x y, t.fb.pixel x y = s.fb.pixel x y
  | .fault => t.fault = s.fault
  | .cfg => t.cfg = s.cfg
  | .caller => t.caller = s.caller
  | .ix => t.ix = s.ix
  | .out => t.out = s.out

/-- The frame of a change from `s` to `t`: every field but those listed reads as before. -/
def UnchangedExcept (fields : List Field) (s t : State) : Prop := ∀ f, f ∉ fields → Field.same s t f

/-- Every general register but those listed reads as before. -/
def RegsUnchangedExcept (regs : List Reg) (s t : State) : Prop := ∀ x, x ∉ regs → t.reg x = s.reg x

/-- What a raised fault leaves (60_exceptions.md R118), seen from the state the instruction executed in: FAULT set, PC back at the
instruction, the step's outputs discarded, every other element as it was. -/
def RaisesTo (k : Fault) (s t : State) : Prop :=
  t.fault = some k ∧ t.pc = s.pc - 2#16 ∧ t.out = [] ∧ UnchangedExcept [.fault, .pc, .out] s t

/-- What a free caller's step does besides its body (log 1, 2): a tick of the free time that follows it (60_exceptions.md R127),
and a fresh free value for the next one. -/
def FreeTimePasses (s t : State) : Prop :=
  t.acc = (s.acc + Config.freeElapsed s.ix) % Config.unitsPerTick ∧
    t.dt.toNat = s.dt.toNat - (s.acc + Config.freeElapsed s.ix) / Config.unitsPerTick ∧
    t.st.toNat = s.st.toNat - (s.acc + Config.freeElapsed s.ix) / Config.unitsPerTick ∧ t.ix = s.ix + 1

/-- The end of a scheduled step, from the state its body leaves (40_step.md R72): it returns `Continued`, or `Faulted` with the
fault set; the caller goes on to `rest`, with a fresh free value; everything else stays. -/
def ScheduledStepEnds (rest : List CallerOp) (s t : State) : Prop :=
  (s.fault = none → t.out = s.out ++ [.stepReturned .continued]) ∧
    (∀ k, s.fault = some k → t.out = s.out ++ [.stepReturned (.faulted k)]) ∧
    t.caller = rest ∧ t.ix = s.ix + 1 ∧ UnchangedExcept [.out, .caller, .ix] s t

/-- The end of a free caller's step, from the state its body leaves: it returns likewise, then the free time is ticked, which
returns whether the sound timer is nonzero (R127, R129); everything else stays (log 1). -/
def FreeStepEnds (s t : State) : Prop :=
  (s.fault = none → t.out = s.out ++ [.stepReturned .continued, .tickReturned (decide (t.st ≠ 0#8))]) ∧
    (∀ k, s.fault = some k → t.out = s.out ++ [.stepReturned (.faulted k), .tickReturned (decide (t.st ≠ 0#8))]) ∧
    FreeTimePasses s t ∧ t.caller = [] ∧ UnchangedExcept [.out, .caller, .ix, .acc, .dt, .st] s t

/-- A safe state: no fault is latched. -/
def State.Safe (s : State) : Prop := s.fault = none

/-- A fault's information is in the range of 60_exceptions.md R116, and a stack fault stands with the stack pointer that raised it. -/
def Fault.Legal (s : State) : Fault → Prop
  | .memoryFault a => 4096 ≤ a
  | .stackOverflow => s.sp.val = 16
  | .stackUnderflow => s.sp.val = 0
  | .registerIndexOutOfRange v => 16 ≤ v.toNat

/-- The invariant of 10_state.md R35 (what the field types do not already say), the canonical form of memory, and the shape of a
faulted state: legal information, and not waiting. -/
def State.Inv (s : State) : Prop :=
  s.pc.toNat ≤ 0x10FE ∧ (∀ k, (s.slot k).toNat ≤ 0x1000) ∧ s.acc < Config.unitsPerTick ∧ s.mem.wf = true ∧
    ∀ k, s.fault = some k → Fault.Legal s k ∧ s.wait = false

/-- Whether an `n`-row sprite with origin V[x], V[y] covers the pixel (45_draw.md R101). -/
def State.spriteCovers (s : State) (x y : Reg) (n : Nat) (px : Fin 64) (py : Fin 32) : Prop :=
  ∃ r c, r < n ∧ c < 8 ∧ ((s.reg x).toNat + c) % 64 = px.val ∧ ((s.reg y).toNat + r) % 32 = py.val

/-- Whether the sprite at I has a 1 bit on the pixel: row r is MEM[I + r], column c is its bit 7 - c (45_draw.md R98). -/
def State.spriteOn (s : State) (x y : Reg) (n : Nat) (px : Fin 64) (py : Fin 32) : Prop :=
  ∃ r c, r < n ∧ c < 8 ∧ ((s.reg x).toNat + c) % 64 = px.val ∧ ((s.reg y).toNat + r) % 32 = py.val ∧
    (s.mem.read (s.i.toNat + r)).getLsbD (7 - c) = true

/-- The words of 30_encoding.md R60. -/
def UnknownWord (w : Word) : Prop :=
  (fieldF w = 0x0#4 ∧ w ≠ 0x00E0#16 ∧ w ≠ 0x00EE#16) ∨
  (fieldF w = 0x8#4 ∧ fieldN w ∈ [0x8#4, 0x9#4, 0xA#4, 0xB#4, 0xC#4, 0xD#4, 0xF#4]) ∨
  (fieldF w = 0xE#4 ∧ fieldNN w ∉ [0x9E#8, 0xA1#8]) ∨
  (fieldF w = 0xF#4 ∧ fieldNN w ∉ [0x07#8, 0x0A#8, 0x15#8, 0x18#8, 0x1E#8, 0x29#8, 0x33#8, 0x55#8, 0x65#8])

/-- Whether the instruction reads `keys` or `rand` (40_step.md R73). -/
def readsInputs : Instr → Bool
  | .skp _ | .sknp _ | .rnd _ _ => true
  | .cls | .ret | .jp _ | .call _ | .seImm _ _ | .sneImm _ _ | .seReg _ _ _ | .ldImm _ _ | .addImm _ _ => false
  | .ldReg _ _ | .orReg _ _ | .andReg _ _ | .xorReg _ _ | .addReg _ _ | .subReg _ _ | .shrReg _ _ => false
  | .subnReg _ _ | .shlReg _ _ | .sneReg _ _ _ | .ldI _ | .jpV0 _ _ | .drw _ _ _ => false
  | .ldVxDT _ | .ldVxK _ | .ldDTVx _ | .ldSTVx _ | .addI _ | .ldF _ | .ldB _ | .storeRegs _ | .loadRegs _ => false

/-- The registers an instruction may write, by the table of 10_state.md R19: its destination, and VF where it writes a flag. A
key wait's register is written by a later step. -/
def regsWritten (cfg : Switches) : Instr → List Reg
  | .ldImm x _ | .addImm x _ | .ldReg x _ | .orReg x _ | .andReg x _ | .xorReg x _ | .rnd x _ | .ldVxDT x => [x]
  | .addReg x _ | .subReg x _ | .shrReg x _ | .subnReg x _ | .shlReg x _ => [x, Reg.vf]
  | .drw _ _ _ => if cfg.drawXorCollision then [Reg.vf] else []
  | .loadRegs x => (List.range (x.toNat + 1)).map (BitVec.ofNat 4)
  | .cls | .ret | .jp _ | .call _ | .seImm _ _ | .sneImm _ _ | .seReg _ _ _ | .sneReg _ _ _ | .ldI _ | .jpV0 _ _ => []
  | .skp _ | .sknp _ | .ldVxK _ | .ldDTVx _ | .ldSTVx _ | .addI _ | .ldF _ | .ldB _ | .storeRegs _ => []

/-- The instructions that write memory (20_memory.md R37). -/
def writesMemory : Instr → Bool
  | .ldB _ | .storeRegs _ => true
  | .cls | .ret | .jp _ | .call _ | .seImm _ _ | .sneImm _ _ | .seReg _ _ _ | .ldImm _ _ | .addImm _ _ => false
  | .ldReg _ _ | .orReg _ _ | .andReg _ _ | .xorReg _ _ | .addReg _ _ | .subReg _ _ | .shrReg _ _ => false
  | .subnReg _ _ | .shlReg _ _ | .sneReg _ _ _ | .ldI _ | .jpV0 _ _ | .rnd _ _ | .drw _ _ _ => false
  | .skp _ | .sknp _ | .ldVxDT _ | .ldVxK _ | .ldDTVx _ | .ldSTVx _ | .addI _ | .ldF _ | .loadRegs _ => false

end Sys2Proof.Machine
end

