-- ==== Sys2Proof/Certificates/Slice0/Obligations.lean ====
section
/-! DEFINITION. The statements for the provers, each with the rule of spec/ it formalises. `exec` runs an instruction with PC already
advanced by 2 (40_step.md R68), so `s.pc` there is the address after the instruction. -/

open Sys2Proof Sys2Proof.Machine

/-! ## Family 0x0 to 0x5 and 0x9: display clear, subroutine, jump, skips (41_flow.md) -/

/-- R75, with the word 0x00E0 (spec decision D19, log 13): every pixel goes off, `Clear` is emitted, nothing else changes. -/
def Obligations.ClsClearsTheDisplay : Prop :=
  decodeWord 0x00E0#16 = .ok .cls ∧
  ∀ s : State, ∃ t, exec .cls s = .next t ∧ (∀ x y, t.fb.pixel x y = false) ∧ t.out = s.out ++ [.clear] ∧
    UnchangedExcept [.fb, .out] s t

/-- R76, with the word 0x00EE (D19, log 13) and the popped slot kept (spec decision D7, log 23): a return pops SP and PC; with
an empty stack it raises StackUnderflow, taken as R118 says (spec decision D15, log 7), and changes nothing else. -/
def Obligations.RetPopsTheStackOrUnderflows : Prop :=
  decodeWord 0x00EE#16 = .ok .ret ∧
  ∀ s : State,
    (s.sp.val ≠ 0 → ∃ t, exec .ret s = .next t ∧ t.sp.val + 1 = s.sp.val ∧ t.pc = s.slot (s.sp.val - 1) ∧
      UnchangedExcept [.sp, .pc] s t) ∧
    (s.sp.val = 0 → ∃ t, exec .ret s = .next t ∧ RaisesTo .stackUnderflow s t)

/-- R77: PC is the address field, nothing else changes. -/
def Obligations.JpSetsPc : Prop :=
  ∀ nnn : Addr, decodeWord (0x1#4 ++ nnn) = .ok (.jp nnn) ∧
    ∀ s : State, ∃ t, exec (.jp nnn) s = .next t ∧ t.pc.toNat = nnn.toNat ∧ UnchangedExcept [.pc] s t

/-- R78: a call pushes the advanced PC and jumps; with a full stack it raises StackOverflow, taken as R118 says
(spec decision D15, log 7), and changes nothing else. -/
def Obligations.CallPushesPcOrOverflows : Prop :=
  ∀ nnn : Addr, decodeWord (0x2#4 ++ nnn) = .ok (.call nnn) ∧
    ∀ s : State,
      (s.sp.val ≠ 16 → ∃ t, exec (.call nnn) s = .next t ∧ t.slot s.sp.val = s.pc ∧
        (∀ k, k ≠ s.sp.val → t.slot k = s.slot k) ∧ t.sp.val = s.sp.val + 1 ∧ t.pc.toNat = nnn.toNat ∧
        UnchangedExcept [.stack, .sp, .pc] s t) ∧
      (s.sp.val = 16 → ∃ t, exec (.call nnn) s = .next t ∧ RaisesTo .stackOverflow s t)

/-- R79, R80: the skips against an immediate add 2 more to PC when the condition holds, and change nothing else. -/
def Obligations.ImmediateSkipsAdvancePc : Prop :=
  ∀ (x : Reg) (nn : Byte),
    decodeWord (0x3#4 ++ x ++ nn) = .ok (.seImm x nn) ∧ decodeWord (0x4#4 ++ x ++ nn) = .ok (.sneImm x nn) ∧
    ∀ s : State,
      (∃ t, exec (.seImm x nn) s = .next t ∧ t.pc = (if s.reg x = nn then s.pc + 2#16 else s.pc) ∧
        UnchangedExcept [.pc] s t) ∧
      (∃ t, exec (.sneImm x nn) s = .next t ∧ t.pc = (if s.reg x ≠ nn then s.pc + 2#16 else s.pc) ∧
        UnchangedExcept [.pc] s t)

/-- R81, R82, for every value of the ignored nibble (spec decision D20, log 13). -/
def Obligations.RegisterSkipsAdvancePc : Prop :=
  ∀ (x y : Reg) (ignored : Nibble),
    decodeWord (0x5#4 ++ x ++ y ++ ignored) = .ok (.seReg x y ignored) ∧
    decodeWord (0x9#4 ++ x ++ y ++ ignored) = .ok (.sneReg x y ignored) ∧
    ∀ s : State,
      (∃ t, exec (.seReg x y ignored) s = .next t ∧
        t.pc = (if s.reg x = s.reg y then s.pc + 2#16 else s.pc) ∧ UnchangedExcept [.pc] s t) ∧
      (∃ t, exec (.sneReg x y ignored) s = .next t ∧
        t.pc = (if s.reg x ≠ s.reg y then s.pc + 2#16 else s.pc) ∧ UnchangedExcept [.pc] s t)

/-! ## Families 0x6 and 0x7: immediates (42_immediate.md) -/

/-- R83: the register is the immediate, nothing else changes. -/
def Obligations.LdImmediateLoadsNN : Prop :=
  ∀ (x : Reg) (nn : Byte), decodeWord (0x6#4 ++ x ++ nn) = .ok (.ldImm x nn) ∧
    ∀ s : State, ∃ t, exec (.ldImm x nn) s = .next t ∧ t.reg x = nn ∧ RegsUnchangedExcept [x] s t ∧
      UnchangedExcept [.v] s t

/-- R84: the sum wraps modulo 256, with no flag: VF is written only as the destination. -/
def Obligations.AddImmediateWrapsWithoutFlag : Prop :=
  ∀ (x : Reg) (nn : Byte), decodeWord (0x7#4 ++ x ++ nn) = .ok (.addImm x nn) ∧
    ∀ s : State, ∃ t, exec (.addImm x nn) s = .next t ∧ (t.reg x).toNat = ((s.reg x).toNat + nn.toNat) % 256 ∧
      RegsUnchangedExcept [x] s t ∧ UnchangedExcept [.v] s t

/-! ## Family 0x8: the ALU (43_alu.md); its sub-opcodes are the spec's decision D21 (log 13) -/

/-- R86 to R89: assign, OR, AND, XOR write V[x] and nothing else; VF is left unless it is V[x] (spec decision D22, log 15). -/
def Obligations.MoveAndLogicWriteVxOnly : Prop :=
  ∀ x y : Reg,
    decodeWord (0x8#4 ++ x ++ y ++ 0x0#4) = .ok (.ldReg x y) ∧ decodeWord (0x8#4 ++ x ++ y ++ 0x1#4) = .ok (.orReg x y) ∧
    decodeWord (0x8#4 ++ x ++ y ++ 0x2#4) = .ok (.andReg x y) ∧ decodeWord (0x8#4 ++ x ++ y ++ 0x3#4) = .ok (.xorReg x y) ∧
    ∀ s : State,
      (∃ t, exec (.ldReg x y) s = .next t ∧ t.reg x = s.reg y ∧ RegsUnchangedExcept [x] s t ∧ UnchangedExcept [.v] s t) ∧
      (∃ t, exec (.orReg x y) s = .next t ∧ t.reg x = s.reg x ||| s.reg y ∧ RegsUnchangedExcept [x] s t ∧
        UnchangedExcept [.v] s t) ∧
      (∃ t, exec (.andReg x y) s = .next t ∧ t.reg x = s.reg x &&& s.reg y ∧ RegsUnchangedExcept [x] s t ∧
        UnchangedExcept [.v] s t) ∧
      (∃ t, exec (.xorReg x y) s = .next t ∧ t.reg x = s.reg x ^^^ s.reg y ∧ RegsUnchangedExcept [x] s t ∧
        UnchangedExcept [.v] s t)

/-- R90, with the flag written last (R85, spec decision D6, log 14): VF is the carry, V[x] the sum if it is not VF. -/
def Obligations.AddSetsCarryInVf : Prop :=
  ∀ x y : Reg, decodeWord (0x8#4 ++ x ++ y ++ 0x4#4) = .ok (.addReg x y) ∧
    ∀ s : State, ∃ t, exec (.addReg x y) s = .next t ∧
      t.reg Reg.vf = (if (s.reg x).toNat + (s.reg y).toNat > 255 then 1#8 else 0#8) ∧
      (x ≠ Reg.vf → (t.reg x).toNat = ((s.reg x).toNat + (s.reg y).toNat) % 256) ∧
      RegsUnchangedExcept [x, Reg.vf] s t ∧ UnchangedExcept [.v] s t

/-- R91, R93, with the flag written last (D6, log 14): VF is 1 when no borrow occurs, V[x] the difference if it is not VF. -/
def Obligations.SubtractionsSetNoBorrowInVf : Prop :=
  ∀ x y : Reg,
    decodeWord (0x8#4 ++ x ++ y ++ 0x5#4) = .ok (.subReg x y) ∧ decodeWord (0x8#4 ++ x ++ y ++ 0x7#4) = .ok (.subnReg x y) ∧
    ∀ s : State,
      (∃ t, exec (.subReg x y) s = .next t ∧
        t.reg Reg.vf = (if (s.reg x).toNat ≥ (s.reg y).toNat then 1#8 else 0#8) ∧
        (x ≠ Reg.vf → (t.reg x).toNat = ((s.reg x).toNat + 256 - (s.reg y).toNat) % 256) ∧
        RegsUnchangedExcept [x, Reg.vf] s t ∧ UnchangedExcept [.v] s t) ∧
      (∃ t, exec (.subnReg x y) s = .next t ∧
        t.reg Reg.vf = (if (s.reg y).toNat ≥ (s.reg x).toNat then 1#8 else 0#8) ∧
        (x ≠ Reg.vf → (t.reg x).toNat = ((s.reg y).toNat + 256 - (s.reg x).toNat) % 256) ∧
        RegsUnchangedExcept [x, Reg.vf] s t ∧ UnchangedExcept [.v] s t)

/-- R92, under both settings of SHIFT_USES_VY: V[x] is half the source if it is not VF, VF the bit shifted out. -/
def Obligations.ShrHalvesAndSetsVf : Prop :=
  ∀ x y : Reg, decodeWord (0x8#4 ++ x ++ y ++ 0x6#4) = .ok (.shrReg x y) ∧
    ∀ (s : State) (src : Byte), src = (if s.cfg.shiftUsesVy = true then s.reg y else s.reg x) →
      ∃ t, exec (.shrReg x y) s = .next t ∧ (t.reg Reg.vf).toNat = src.toNat % 2 ∧
        (x ≠ Reg.vf → (t.reg x).toNat = src.toNat / 2) ∧ RegsUnchangedExcept [x, Reg.vf] s t ∧ UnchangedExcept [.v] s t

/-- R94, under both settings of SHIFT_USES_VY: V[x] is twice the source modulo 256 if it is not VF, VF the bit shifted out. -/
def Obligations.ShlDoublesAndSetsVf : Prop :=
  ∀ x y : Reg, decodeWord (0x8#4 ++ x ++ y ++ 0xE#4) = .ok (.shlReg x y) ∧
    ∀ (s : State) (src : Byte), src = (if s.cfg.shiftUsesVy = true then s.reg y else s.reg x) →
      ∃ t, exec (.shlReg x y) s = .next t ∧ (t.reg Reg.vf).toNat = src.toNat / 128 ∧
        (x ≠ Reg.vf → (t.reg x).toNat = src.toNat * 2 % 256) ∧ RegsUnchangedExcept [x, Reg.vf] s t ∧
        UnchangedExcept [.v] s t

/-! ## Families 0xA, 0xB, 0xC (44_index_jump_random.md) -/

/-- R95: I is the address field, nothing else changes. -/
def Obligations.LdISetsI : Prop :=
  ∀ nnn : Addr, decodeWord (0xA#4 ++ nnn) = .ok (.ldI nnn) ∧
    ∀ s : State, ∃ t, exec (.ldI nnn) s = .next t ∧ t.i.toNat = nnn.toNat ∧ UnchangedExcept [.i] s t

/-- R96: PC is NNN plus V[0], or plus the register named by NNN[11:8] when JUMP_OFFSET_USES_V0 is false; nothing is masked. -/
def Obligations.IndexedJumpAddsBase : Prop :=
  ∀ nnn : Addr, decodeWord (0xB#4 ++ nnn) = .ok (.jpV0 nnn (nnn.extractLsb' 8 4)) ∧
    ∀ (x : Reg) (s : State), ∃ t, exec (.jpV0 nnn x) s = .next t ∧
      t.pc.toNat = nnn.toNat + (if s.cfg.jumpOffsetUsesV0 = true then s.reg 0#4 else s.reg x).toNat ∧
      UnchangedExcept [.pc] s t

/-- R97: V[x] is the step's random byte under the mask, whatever that byte is (spec decision D5, log 2). In a scheduled step it
is the caller's byte. -/
def Obligations.RndMasksTheRandomByte : Prop :=
  ∀ (x : Reg) (nn : Byte), decodeWord (0xC#4 ++ x ++ nn) = .ok (.rnd x nn) ∧
    ∀ s : State,
      (∃ t, exec (.rnd x nn) s = .next t ∧ t.reg x = s.rand &&& nn ∧ RegsUnchangedExcept [x] s t ∧
        UnchangedExcept [.v] s t) ∧
      (∀ keys rand rest, s.caller = .step keys rand :: rest → s.rand = rand)

/-! ## Family 0xD: the drawing engine (45_draw.md) -/

/-- R98, R99, R101 with DRAW_XOR_COLLISION: every pixel the sprite has a 1 bit on is toggled, every other keeps its value, and
VF is 1 exactly when a pixel went from on to off (written on every draw: spec decision D23, log 15). -/
def Obligations.DrawXorTogglesAndReportsCollision : Prop :=
  ∀ (x y : Reg) (n : Nibble), decodeWord (0xD#4 ++ x ++ y ++ n) = .ok (.drw x y n) ∧
    ∀ s : State, s.cfg.drawXorCollision = true → (n = 0#4 ∨ s.i.toNat + n.toNat ≤ 4096) →
      ∃ t, exec (.drw x y n) s = .next t ∧
        (∀ px py, s.spriteOn x y n.toNat px py → t.fb.pixel px py = !s.fb.pixel px py) ∧
        (∀ px py, ¬ s.spriteOn x y n.toNat px py → t.fb.pixel px py = s.fb.pixel px py) ∧
        ((∃ px py, s.spriteOn x y n.toNat px py ∧ s.fb.pixel px py = true) → t.reg Reg.vf = 1#8) ∧
        ((¬ ∃ px py, s.spriteOn x y n.toNat px py ∧ s.fb.pixel px py = true) → t.reg Reg.vf = 0#8) ∧
        RegsUnchangedExcept [Reg.vf] s t ∧ UnchangedExcept [.v, .fb, .out] s t

/-- R98, R100, R101 without DRAW_XOR_COLLISION: every covered pixel takes its bit, every other keeps its value, and VF is not
written (spec decision D23, log 15). -/
def Obligations.DrawOverwriteSetsCoveredPixels : Prop :=
  ∀ (x y : Reg) (n : Nibble) (s : State), s.cfg.drawXorCollision = false → (n = 0#4 ∨ s.i.toNat + n.toNat ≤ 4096) →
    ∃ t, exec (.drw x y n) s = .next t ∧
      (∀ px py, s.spriteOn x y n.toNat px py → t.fb.pixel px py = true) ∧
      (∀ px py, s.spriteCovers x y n.toNat px py → ¬ s.spriteOn x y n.toNat px py → t.fb.pixel px py = false) ∧
      (∀ px py, ¬ s.spriteCovers x y n.toNat px py → t.fb.pixel px py = s.fb.pixel px py) ∧
      UnchangedExcept [.fb, .out] s t

/-- R102: with N = 0 there is no fault whatever I holds and no pixel changes; VF becomes 0 with DRAW_XOR_COLLISION (spec
decision D23, log 15) and is left without it. -/
def Obligations.DrawOfNoRowsChangesNoPixel : Prop :=
  ∀ (x y : Reg) (s : State), ∃ t, exec (.drw x y 0#4) s = .next t ∧
    (s.cfg.drawXorCollision = true → t.reg Reg.vf = 0#8 ∧ RegsUnchangedExcept [Reg.vf] s t) ∧
    (s.cfg.drawXorCollision = false → RegsUnchangedExcept [] s t) ∧ UnchangedExcept [.v, .out] s t

/-- R98, R99: drawing the same sprite twice at the same place restores every pixel, and the second draw reports a collision
exactly when some pixel of a 1 bit was off before the first: the rule's sentence that it always does so holds from such a state
only, by the rule's own pseudocode (log 25). VF is no origin register here: a draw writes it. -/
def Obligations.DrawingTwiceRestoresTheDisplay : Prop :=
  ∀ (x y : Reg) (n : Nibble) (s : State), s.cfg.drawXorCollision = true → x ≠ Reg.vf → y ≠ Reg.vf →
    s.i.toNat + n.toNat ≤ 4096 →
    ∃ t u, exec (.drw x y n) s = .next t ∧ exec (.drw x y n) t = .next u ∧
      (∀ px py, u.fb.pixel px py = s.fb.pixel px py) ∧
      ((∃ px py, s.spriteOn x y n.toNat px py ∧ s.fb.pixel px py = false) → u.reg Reg.vf = 1#8) ∧
      ((¬ ∃ px py, s.spriteOn x y n.toNat px py ∧ s.fb.pixel px py = false) → u.reg Reg.vf = 0#8)

/-- R103 (spec decision D24; the requests are counted from a sink that mirrors FB before the step, log 10): from a step's
beginning, with its output stream empty, every instruction's requests take the sink's grid from FB before to FB after. -/
def Obligations.SinkMirrorsFrameBuffer : Prop :=
  ∀ (i : Instr) (s t : State), s.out = [] → exec i s = .next t → mirror t.out s.fb = t.fb

/-! ## Family 0xE: key tests (46_keys.md) -/

/-- R104, R105, R106, with the sub-opcodes of spec decision D21 (log 13): the key named by V[x] is looked up in the step's
snapshot, a value above 15 raises RegisterIndexOutOfRange before any skip, taken as R118 says (spec decision D15, log 7). In a
scheduled step the snapshot is the caller's. -/
def Obligations.KeyTestsSkipOrFault : Prop :=
  ∀ x : Reg, decodeWord (0xE#4 ++ x ++ 0x9E#8) = .ok (.skp x) ∧ decodeWord (0xE#4 ++ x ++ 0xA1#8) = .ok (.sknp x) ∧
    ∀ s : State,
      (∀ h : (s.reg x).toNat < 16,
        (∃ t, exec (.skp x) s = .next t ∧ t.pc = (if s.keys[(s.reg x).toNat] = true then s.pc + 2#16 else s.pc) ∧
          UnchangedExcept [.pc] s t) ∧
        (∃ t, exec (.sknp x) s = .next t ∧ t.pc = (if s.keys[(s.reg x).toNat] = true then s.pc else s.pc + 2#16) ∧
          UnchangedExcept [.pc] s t)) ∧
      (16 ≤ (s.reg x).toNat →
        (∃ t, exec (.skp x) s = .next t ∧ RaisesTo (.registerIndexOutOfRange (s.reg x)) s t) ∧
        (∃ t, exec (.sknp x) s = .next t ∧ RaisesTo (.registerIndexOutOfRange (s.reg x)) s t)) ∧
      (∀ keys rand rest, s.caller = .step keys rand :: rest → s.keys = keys)

/-! ## Family 0xF (47_misc.md); its sub-opcodes are the spec's decision D21 (log 13) -/

/-- R107: V[x] is DT, which is not changed. -/
def Obligations.LdVxDtReadsDelayTimer : Prop :=
  ∀ x : Reg, decodeWord (0xF#4 ++ x ++ 0x07#8) = .ok (.ldVxDT x) ∧
    ∀ s : State, ∃ t, exec (.ldVxDT x) s = .next t ∧ t.reg x = s.dt ∧ RegsUnchangedExcept [x] s t ∧
      UnchangedExcept [.v] s t

/-- R108: WAIT is set with its target register, whatever the snapshot (spec decision D27, log 18). -/
def Obligations.LdVxKStartsTheWait : Prop :=
  ∀ x : Reg, decodeWord (0xF#4 ++ x ++ 0x0A#8) = .ok (.ldVxK x) ∧
    ∀ s : State, ∃ t, exec (.ldVxK x) s = .next t ∧ t.wait = true ∧ t.wreg = x ∧ UnchangedExcept [.wait, .wreg] s t

/-- R109, R110: the timers are set from V[x]; ACC and everything else is unchanged. -/
def Obligations.LdDtAndLdStSetTimers : Prop :=
  ∀ x : Reg, decodeWord (0xF#4 ++ x ++ 0x15#8) = .ok (.ldDTVx x) ∧ decodeWord (0xF#4 ++ x ++ 0x18#8) = .ok (.ldSTVx x) ∧
    ∀ s : State,
      (∃ t, exec (.ldDTVx x) s = .next t ∧ t.dt = s.reg x ∧ UnchangedExcept [.dt] s t) ∧
      (∃ t, exec (.ldSTVx x) s = .next t ∧ t.st = s.reg x ∧ UnchangedExcept [.st] s t)

/-- R111: I wraps modulo 65536, VF is not written (spec decision D22, log 15). -/
def Obligations.AddIWrapsWithoutFlag : Prop :=
  ∀ x : Reg, decodeWord (0xF#4 ++ x ++ 0x1E#8) = .ok (.addI x) ∧
    ∀ s : State, ∃ t, exec (.addI x) s = .next t ∧ t.i.toNat = (s.i.toNat + (s.reg x).toNat) % 65536 ∧
      UnchangedExcept [.i] s t

/-- R112: I is the glyph address of the low nibble of V[x] (spec decision D4, log 5). -/
def Obligations.LdFPointsAtGlyph : Prop :=
  ∀ x : Reg, decodeWord (0xF#4 ++ x ++ 0x29#8) = .ok (.ldF x) ∧
    ∀ s : State, ∃ t, exec (.ldF x) s = .next t ∧ t.i.toNat = 0x050 + 5 * ((s.reg x).toNat % 16) ∧
      UnchangedExcept [.i] s t

/-- R113: the decimal digits of V[x] go to I, I + 1 and I + 2, hundreds first (spec decision D25, log 16); every other byte of
memory and everything else is unchanged. -/
def Obligations.LdBStoresDecimalDigits : Prop :=
  ∀ x : Reg, decodeWord (0xF#4 ++ x ++ 0x33#8) = .ok (.ldB x) ∧
    ∀ s : State, s.i.toNat + 2 < 4096 → ∃ t, exec (.ldB x) s = .next t ∧
      (t.mem.read s.i.toNat).toNat = (s.reg x).toNat / 100 ∧
      (t.mem.read (s.i.toNat + 1)).toNat = (s.reg x).toNat / 10 % 10 ∧
      (t.mem.read (s.i.toNat + 2)).toNat = (s.reg x).toNat % 10 ∧
      (∀ a, a < s.i.toNat ∨ s.i.toNat + 2 < a → t.mem.read a = s.mem.read a) ∧ UnchangedExcept [.mem] s t

/-- R114: V[0] to V[x] go to I upwards; every other byte of memory and everything else is unchanged, I too (spec decision D26,
log 16). -/
def Obligations.BulkStoreWritesV0ToVx : Prop :=
  ∀ x : Reg, decodeWord (0xF#4 ++ x ++ 0x55#8) = .ok (.storeRegs x) ∧
    ∀ s : State, s.i.toNat + x.toNat < 4096 → ∃ t, exec (.storeRegs x) s = .next t ∧
      (∀ y : Reg, y.toNat ≤ x.toNat → t.mem.read (s.i.toNat + y.toNat) = s.reg y) ∧
      (∀ a, a < s.i.toNat ∨ s.i.toNat + x.toNat < a → t.mem.read a = s.mem.read a) ∧ UnchangedExcept [.mem] s t

/-- R115: V[0] to V[x] are loaded from I upwards; every other register and everything else is unchanged, I too (spec decision
D26, log 16). -/
def Obligations.BulkLoadReadsV0ToVx : Prop :=
  ∀ x : Reg, decodeWord (0xF#4 ++ x ++ 0x65#8) = .ok (.loadRegs x) ∧
    ∀ s : State, s.i.toNat + x.toNat < 4096 → ∃ t, exec (.loadRegs x) s = .next t ∧
      (∀ y : Reg, y.toNat ≤ x.toNat → t.reg y = s.mem.read (s.i.toNat + y.toNat)) ∧
      (∀ y : Reg, x.toNat < y.toNat → t.reg y = s.reg y) ∧ UnchangedExcept [.v] s t

/-- R42 (spec decision D10, log 17) on the four instructions that access memory through I: when an address is 4096 or more they
raise MemoryFault with the first such address, taken as R118 says (spec decision D15, log 7), and change nothing else. -/
def Obligations.InvalidAddressThroughIFaults : Prop :=
  ∀ s : State,
    (∀ (x y : Reg) (n : Nibble), n ≠ 0#4 → 4096 < s.i.toNat + n.toNat →
      ∃ t, exec (.drw x y n) s = .next t ∧ RaisesTo (.memoryFault (max s.i.toNat 4096)) s t) ∧
    (4096 ≤ s.i.toNat + 2 → ∀ x, ∃ t, exec (.ldB x) s = .next t ∧ RaisesTo (.memoryFault (max s.i.toNat 4096)) s t) ∧
    (∀ x : Reg, 4096 ≤ s.i.toNat + x.toNat →
      (∃ t, exec (.storeRegs x) s = .next t ∧ RaisesTo (.memoryFault (max s.i.toNat 4096)) s t) ∧
      (∃ t, exec (.loadRegs x) s = .next t ∧ RaisesTo (.memoryFault (max s.i.toNat 4096)) s t))

/-! ## Reset and program load (70_reset_and_hazards.md) -/

/-- R34, with the font of R136 (from general knowledge, log 5) and the reset of FB, FAULT and ACC (spec decision D8, log 19): the
state after reset. Nothing is said of the model's own fields. -/
def Obligations.ResetStateHoldsResetValues : Prop :=
  (∀ x, State.reset.reg x = 0#8) ∧ State.reset.i = 0#16 ∧ State.reset.pc = 0x200#16 ∧ State.reset.sp.val = 0 ∧
  (∀ k, State.reset.slot k = 0#16) ∧ State.reset.dt = 0#8 ∧ State.reset.st = 0#8 ∧ State.reset.acc = 0 ∧
  State.reset.wait = false ∧ State.reset.wreg = 0#4 ∧ (∀ x y, State.reset.fb.pixel x y = false) ∧ State.reset.fault = none ∧
  (∀ a, a < 0x050 ∨ 0x0A0 ≤ a → State.reset.mem.read a = 0#8) ∧
  State.reset.mem.readBytes 0x050 5 = [0xF0, 0x90, 0x90, 0x90, 0xF0] ∧
  State.reset.mem.readBytes 0x055 5 = [0x20, 0x60, 0x20, 0x20, 0x70] ∧
  State.reset.mem.readBytes 0x05A 5 = [0xF0, 0x10, 0xF0, 0x80, 0xF0] ∧
  State.reset.mem.readBytes 0x05F 5 = [0xF0, 0x10, 0xF0, 0x10, 0xF0] ∧
  State.reset.mem.readBytes 0x064 5 = [0x90, 0x90, 0xF0, 0x10, 0x10] ∧
  State.reset.mem.readBytes 0x069 5 = [0xF0, 0x80, 0xF0, 0x10, 0xF0] ∧
  State.reset.mem.readBytes 0x06E 5 = [0xF0, 0x80, 0xF0, 0x90, 0xF0] ∧
  State.reset.mem.readBytes 0x073 5 = [0xF0, 0x10, 0x20, 0x40, 0x40] ∧
  State.reset.mem.readBytes 0x078 5 = [0xF0, 0x90, 0xF0, 0x90, 0xF0] ∧
  State.reset.mem.readBytes 0x07D 5 = [0xF0, 0x90, 0xF0, 0x10, 0xF0] ∧
  State.reset.mem.readBytes 0x082 5 = [0xF0, 0x90, 0xF0, 0x90, 0x90] ∧
  State.reset.mem.readBytes 0x087 5 = [0xE0, 0x90, 0xE0, 0x90, 0xE0] ∧
  State.reset.mem.readBytes 0x08C 5 = [0xF0, 0x80, 0x80, 0x80, 0xF0] ∧
  State.reset.mem.readBytes 0x091 5 = [0xE0, 0x90, 0x90, 0x90, 0xE0] ∧
  State.reset.mem.readBytes 0x096 5 = [0xF0, 0x80, 0xF0, 0x80, 0xF0] ∧
  State.reset.mem.readBytes 0x09B 5 = [0xF0, 0x80, 0xF0, 0x80, 0x80]

/-- R135 (spec decision D8, log 19): `reset()` called in any state, faulted or waiting too, leaves the reset state; the switches
and the caller's later operations are not the block's state and stay. -/
def Obligations.ResetOperationRestoresResetState : Prop :=
  ∀ (s : State) (rest : List CallerOp), s.caller = .reset :: rest →
    ∃ t, step s = .next t ∧ t.cfg = s.cfg ∧ t.caller = rest ∧ UnchangedExcept [.cfg, .caller, .ix] State.reset t

/-- R137 (spec decision D28, log 20): up to 3584 bytes go to 0x200 upwards and `Ok` is returned; more are a LoadError and
nothing changes. -/
def Obligations.LoadProgramCopiesOrRefuses : Prop :=
  ∀ (s : State) (bytes : List Byte) (rest : List CallerOp), s.caller = .loadProgram bytes :: rest →
    (bytes.length ≤ 3584 → ∃ t, step s = .next t ∧ t.out = [.loadReturned .ok] ∧ t.caller = rest ∧
      (∀ k (h : k < bytes.length), t.mem.read (0x200 + k) = bytes[k]) ∧
      (∀ a, a < 0x200 ∨ 0x200 + bytes.length ≤ a → t.mem.read a = s.mem.read a) ∧
      UnchangedExcept [.mem, .out, .caller, .ix] s t) ∧
    (3584 < bytes.length → ∃ t, step s = .next t ∧ t.out = [.loadReturned .loadError] ∧ t.caller = rest ∧
      UnchangedExcept [.out, .caller, .ix] s t)

/-! ## The step cycle (40_step.md) -/

/-- R64, R68, R70, R72 (spec decisions D11, D14, log 12, 17): when the two bytes at PC decode to an instruction, a step is that
instruction on the advanced state, and then the end of the step, which adds to exec's next state only this: a scheduled step
returns its result, `Continued` where no fault is set, and the schedule goes on; a free caller's step returns it too, and some
time is ticked (the free caller is the model's own, log 1). -/
def Obligations.StepRunsTheDecodedInstruction : Prop :=
  ∀ (s : State) (i : Instr), s.fault = none → s.wait = false → s.pc.toNat + 1 < 4096 →
    decodeWord (s.mem.read s.pc.toNat ++ s.mem.read (s.pc.toNat + 1)) = .ok i →
    (∀ keys rand rest, s.caller = .step keys rand :: rest →
      step s = mapNext State.endStep (exec i s.advanced) ∧
        ∃ t u, exec i s.advanced = .next t ∧ step s = .next u ∧ ScheduledStepEnds rest t u) ∧
    (s.caller = [] →
      step s = mapNext State.endFreeStep (exec i s.advanced) ∧
        ∃ t u, exec i s.advanced = .next t ∧ step s = .next u ∧ FreeStepEnds t u) ∧
    s.advanced.pc = s.pc + 2#16 ∧ s.advanced.out = [] ∧ UnchangedExcept [.pc, .out] s s.advanced

/-- R64, R72, R8: every step, whatever its body meets (a latched fault, a wait, a fetch that fails, an unknown opcode, an
instruction), is that body and then the end of the step, and answers a next state. With nothing scheduled the caller is free
(the model's own, log 1): from a state with no fault, its step is the body and then the tick of the free time, no more. -/
def Obligations.StepIsItsBodyThenItsEnd : Prop :=
  ∀ s : State,
    (∀ keys rand rest, s.caller = .step keys rand :: rest →
      ∃ t u, stepBody s = .next t ∧ step s = .next u ∧ ScheduledStepEnds rest t u) ∧
    (s.caller = [] → s.fault = none → ∃ t u, stepBody s = .next t ∧ step s = .next u ∧ FreeStepEnds t u)

/-- R67 (spec decision D13, log 17), taken as R118 says (D15, log 7): a fetch with an address of 4096 or more raises MemoryFault
with the first such address; nothing is executed and nothing else changes, but that a free caller then lets time pass (log 1). -/
def Obligations.FetchOutsideMemoryFaults : Prop :=
  ∀ (s : State) (k : Fault), s.fault = none → s.wait = false → 4096 ≤ s.pc.toNat + 1 →
    k = .memoryFault (max s.pc.toNat 4096) →
    (∀ keys rand rest, s.caller = .step keys rand :: rest →
      ∃ t, step s = .next t ∧ t.fault = some k ∧ t.out = [.stepReturned (.faulted k)] ∧ t.caller = rest ∧
        UnchangedExcept [.fault, .out, .caller, .ix] s t) ∧
    (s.caller = [] →
      ∃ t, step s = .next t ∧ t.fault = some k ∧
        t.out = [.stepReturned (.faulted k), .tickReturned (decide (t.st ≠ 0#8))] ∧ FreeTimePasses s t ∧
        UnchangedExcept [.fault, .out, .ix, .acc, .dt, .st] s t)

/-- R71 (with the diagnostic's content of spec decision D18, log 22): an unknown opcode only advances PC and emits the
diagnostic with the word and its address; the step returns `Continued`. A free caller then lets time pass (log 1). -/
def Obligations.UnknownOpcodeIsANoOpWithDiagnostic : Prop :=
  ∀ (s : State) (w : Word), s.fault = none → s.wait = false → s.pc.toNat + 1 < 4096 →
    w = s.mem.read s.pc.toNat ++ s.mem.read (s.pc.toNat + 1) → UnknownWord w →
    (∀ keys rand rest, s.caller = .step keys rand :: rest →
      ∃ t, step s = .next t ∧ t.pc = s.pc + 2#16 ∧ t.out = [.unknownOpcode w s.pc, .stepReturned .continued] ∧
        t.caller = rest ∧ UnchangedExcept [.pc, .out, .caller, .ix] s t) ∧
    (s.caller = [] →
      ∃ t, step s = .next t ∧ t.pc = s.pc + 2#16 ∧
        t.out = [.unknownOpcode w s.pc, .stepReturned .continued, .tickReturned (decide (t.st ≠ 0#8))] ∧
        FreeTimePasses s t ∧ UnchangedExcept [.pc, .out, .ix, .acc, .dt, .st] s t)

/-- R66 (spec decision D27, log 18): while WAIT is set a step fetches nothing; the smallest held key goes to V[WREG] and WAIT is
cleared, and with no key held nothing changes. A free caller's snapshot is a free value (log 2), so its clause concludes which of
the two happened; some time passes then (log 1). -/
def Obligations.WaitingStepTakesFirstHeldKey : Prop :=
  ∀ s : State, s.fault = none → s.wait = true →
    (∀ (keys : Keys) (rand : Byte) (rest : List CallerOp), s.caller = .step keys rand :: rest →
      (∀ k : Fin 16, keys[k] = true → (∀ j : Fin 16, j < k → keys[j] = false) →
        ∃ t, step s = .next t ∧ (t.reg s.wreg).toNat = k.val ∧ t.wait = false ∧ t.out = [.stepReturned .continued] ∧
          t.caller = rest ∧ RegsUnchangedExcept [s.wreg] s t ∧ UnchangedExcept [.v, .wait, .out, .caller, .ix] s t) ∧
      ((∀ j : Fin 16, keys[j] = false) →
        ∃ t, step s = .next t ∧ t.out = [.stepReturned .continued] ∧ t.caller = rest ∧
          UnchangedExcept [.out, .caller, .ix] s t)) ∧
    (s.caller = [] →
      ∃ t, step s = .next t ∧ t.out = [.stepReturned .continued, .tickReturned (decide (t.st ≠ 0#8))] ∧ FreeTimePasses s t ∧
        ((∃ k : Fin 16, (Config.freeKeys s.ix)[k] = true ∧ (∀ j : Fin 16, j < k → (Config.freeKeys s.ix)[j] = false) ∧
            (t.reg s.wreg).toNat = k.val ∧ t.wait = false ∧ RegsUnchangedExcept [s.wreg] s t ∧
            UnchangedExcept [.v, .wait, .out, .ix, .acc, .dt, .st] s t) ∨
          ((∀ j : Fin 16, (Config.freeKeys s.ix)[j] = false) ∧ UnchangedExcept [.out, .ix, .acc, .dt, .st] s t)))

/-- R65 (spec decision D15, log 7, 8): while FAULT is set a scheduled step returns the latched fault and changes nothing; with
nothing scheduled the machine step answers that fault. -/
def Obligations.FaultStaysLatched : Prop :=
  ∀ (s : State) (k : Fault), s.fault = some k →
    (∀ keys rand rest, s.caller = .step keys rand :: rest →
      ∃ t, step s = .next t ∧ t.out = [.stepReturned (.faulted k)] ∧ t.caller = rest ∧
        UnchangedExcept [.out, .caller, .ix] s t) ∧
    (s.caller = [] → step s = .fault k)

/-- R118 (spec decision D15, log 7): a step that raises a fault leaves every element of the block as before the step, discards
the step's requests and diagnostics, sets FAULT and returns it. A free caller then lets time pass, which is no part of the step
(log 1). -/
def Obligations.FaultsArePrecise : Prop :=
  ∀ s t : State, s.fault = none → step s = .next t → t.fault ≠ none →
    (∀ keys rand rest, s.caller = .step keys rand :: rest →
      (∃ k, t.fault = some k ∧ t.out = [.stepReturned (.faulted k)]) ∧ t.caller = rest ∧
        UnchangedExcept [.fault, .out, .caller, .ix] s t) ∧
    (s.caller = [] →
      (∃ k, t.fault = some k ∧ t.out = [.stepReturned (.faulted k), .tickReturned (decide (t.st ≠ 0#8))]) ∧
        FreeTimePasses s t ∧ UnchangedExcept [.fault, .out, .ix, .acc, .dt, .st] s t)

/-- Every instruction has its effect or takes its fault in every state: `exec` answers a next state (40_step.md R72; the
model's way of taking a fault is log 7). -/
def Obligations.EveryInstructionAnswersANextState : Prop := ∀ (i : Instr) (s : State), ∃ t, exec i s = .next t

/-! ## The timer unit (60_exceptions.md) -/

/-- R127, R129 (spec decision D3, log 24): `tick` adds the elapsed units, takes one decrement per UNITS_PER_TICK from both
timers, clamped at 0, and returns whether the sound timer is nonzero. It runs in every state and changes nothing else (R128). -/
def Obligations.TickCountsDownBothTimers : Prop :=
  ∀ (s : State) (elapsed : Nat) (rest : List CallerOp), s.caller = .tick elapsed :: rest →
    ∃ t, step s = .next t ∧ t.acc = (s.acc + elapsed) % Config.unitsPerTick ∧
      t.dt.toNat = s.dt.toNat - (s.acc + elapsed) / Config.unitsPerTick ∧
      t.st.toNat = s.st.toNat - (s.acc + elapsed) / Config.unitsPerTick ∧
      t.out = [.tickReturned (decide (t.st ≠ 0#8))] ∧ t.caller = rest ∧
      UnchangedExcept [.acc, .dt, .st, .out, .caller, .ix] s t

/-- R130: from ACC = 0, exactly 1/60 second takes exactly 1 from a nonzero timer and leaves a zero one at 0, and ACC is 0 again. -/
def Obligations.OneSixtiethDecrementsByOne : Prop :=
  ∀ (s : State) (rest : List CallerOp), s.caller = .tick Config.unitsPerTick :: rest → s.acc = 0 →
    ∃ t, step s = .next t ∧ t.acc = 0 ∧
      (s.dt ≠ 0#8 → t.dt.toNat + 1 = s.dt.toNat) ∧ (s.dt = 0#8 → t.dt = 0#8) ∧
      (s.st ≠ 0#8 → t.st.toNat + 1 = s.st.toNat) ∧ (s.st = 0#8 → t.st = 0#8)

/-- R127 (spec decision D3: crossing k boundaries is k decrements): two ticks are one tick of the whole time, so that it does
not matter how the caller divides it. -/
def Obligations.TicksAddUp : Prop :=
  ∀ (s : State) (a b : Nat), s.acc < Config.unitsPerTick → (s.tick a).tick b = s.tick (a + b)

/-- R128 (spec decision D3), R24, R25, R26: no instruction changes ACC; DT changes only by LD DT, Vx and ST only by LD ST, Vx. -/
def Obligations.InstructionsDoNotRunTheTimers : Prop :=
  ∀ (i : Instr) (s t : State), exec i s = .next t →
    t.acc = s.acc ∧ ((∀ x, i ≠ .ldDTVx x) → t.dt = s.dt) ∧ ((∀ x, i ≠ .ldSTVx x) → t.st = s.st)

/-! ## The whole machine -/

/-- R35 at reset: the reset state meets the invariant; its clause on the canonical form of memory is the model's own (log 6). -/
def Obligations.InvariantHoldsAtReset : Prop := State.reset.Inv

/-- R35, R21 (derived in the spec): every machine step keeps the invariant: PC at most 0x10FE, every stack slot at most 0x1000,
ACC below UNITS_PER_TICK, memory in its canonical form (the model's own, log 6), a latched fault legal and never waiting. -/
def Obligations.EveryStepKeepsTheInvariant : Prop := ∀ s t : State, s.Inv → step s = .next t → t.Inv

/-- R10: the switches are fixed for a whole run: no machine step changes them. -/
def Obligations.SwitchesNeverChange : Prop := ∀ s t : State, step s = .next t → t.cfg = s.cfg

/-- R19, R18: an instruction writes no register but its destination in the table of R19, and VF where it writes a flag. -/
def Obligations.OnlyListedRegistersAreWritten : Prop :=
  ∀ (i : Instr) (s t : State), exec i s = .next t → RegsUnchangedExcept (regsWritten s.cfg i) s t

/-- R37: no instruction but LD B, Vx and LD [I], Vx writes memory. -/
def Obligations.OnlyStoresWriteMemory : Prop :=
  ∀ (i : Instr) (s t : State), writesMemory i = false → exec i s = .next t → ∀ a, t.mem.read a = s.mem.read a

/-- R73: an instruction other than SKP, SKNP and RND does the same whatever the step's snapshot and random byte (and whatever
else the caller has scheduled). -/
def Obligations.OtherInstructionsIgnoreInputs : Prop :=
  ∀ (i : Instr) (s : State) (ops : List CallerOp), readsInputs i = false →
    exec i { s with caller := ops } = mapNext (fun t => { t with caller := ops }) (exec i s)

/-- R76, R78 (source example S8): a call and a return in any later state with the call's stack resume at the PC the call
pushed, with the stack pointer as before the call. -/
def Obligations.CallThenReturnRestoresPc : Prop :=
  ∀ (s : State) (nnn : Addr), s.sp.val ≠ 16 → ∃ t, exec (.call nnn) s = .next t ∧
    ∀ u : State, u.sp = t.sp → (∀ k, k < t.sp.val → u.slot k = t.slot k) →
      ∃ w, exec .ret u = .next w ∧ w.pc = s.pc ∧ w.sp = s.sp

/-- R50: two bytes written by LD [I], Vx are the word of the next fetch at their address. -/
def Obligations.StoredBytesAreFetched : Prop :=
  ∀ (x y z : Reg) (s : State), z.toNat = y.toNat + 1 → z.toNat ≤ x.toNat → s.i.toNat + x.toNat < 4096 →
    ∃ t, exec (.storeRegs x) s = .next t ∧
      ∀ u : State, u.mem = t.mem → u.pc.toNat = s.i.toNat + y.toNat → u.fetchWord = .ok (s.reg y ++ s.reg z)

/-- The canonical form of memory does its work: two memories in that form that read the same are equal data (20_memory.md R36;
the form is the model's own, log 6). -/
def Obligations.CanonicalMemoriesReadingAlikeAreEqual : Prop :=
  ∀ m₁ m₂ : Memory, m₁.wf = true → m₂.wf = true → (∀ a, m₁.read a = m₂.read a) → m₁ = m₂

/-! ## Encoding (30_encoding.md) -/

/-- R59: the decoder reads back every well-formed instruction from its word, every field at every value. -/
def Obligations.DecodeOfEncodeIsTheInstruction : Prop :=
  ∀ i : Instr, i.wellFormed = true → decodeWord (encodeWord i) = .ok i

/-- R59: a word the decoder takes is the word of the instruction it gives, which is well-formed: no bit of a word is lost. -/
def Obligations.EncodeOfDecodeIsTheWord : Prop :=
  ∀ (w : Word) (i : Instr), decodeWord w = .ok i → encodeWord i = w ∧ i.wellFormed = true

/-- R60 (its sub-opcodes from spec decisions D19, D21, log 13): the unknown words are exactly those it lists. -/
def Obligations.UnknownWordsAreExactlyTheListed : Prop :=
  ∀ w : Word, decodeWord w = .error (.unknownOpcode w) ↔ UnknownWord w

/-- R59, R61: a word that matches an instruction's row of the opcode map decodes to an instruction of that row, so the rows
are disjoint; and the word of an instruction matches its row. -/
def Obligations.DecodingFollowsTheOpcodeMap : Prop :=
  (∀ (w : Word) (i : Instr), w &&& i.maskMatch.1 = i.maskMatch.2 →
    ∃ j, decodeWord w = .ok j ∧ j.maskMatch = i.maskMatch) ∧
  (∀ (w : Word) (i : Instr), decodeWord w = .ok i → w &&& i.maskMatch.1 = i.maskMatch.2)

/-- R59: one written-out word of each family, from the examples of 41_flow.md to 47_misc.md. -/
def Obligations.WrittenOutWordsDecode : Prop :=
  decodeWord 0x00EE#16 = .ok .ret ∧ decodeWord 0x1345#16 = .ok (.jp 0x345#12) ∧
  decodeWord 0x2210#16 = .ok (.call 0x210#12) ∧ decodeWord 0x3310#16 = .ok (.seImm 3#4 0x10#8) ∧
  decodeWord 0x4311#16 = .ok (.sneImm 3#4 0x11#8) ∧ decodeWord 0x5120#16 = .ok (.seReg 1#4 2#4 0#4) ∧
  decodeWord 0x652A#16 = .ok (.ldImm 5#4 0x2A#8) ∧ decodeWord 0x730A#16 = .ok (.addImm 3#4 0x0A#8) ∧
  decodeWord 0x8127#16 = .ok (.subnReg 1#4 2#4) ∧ decodeWord 0x9120#16 = .ok (.sneReg 1#4 2#4 0#4) ∧
  decodeWord 0xA300#16 = .ok (.ldI 0x300#12) ∧ decodeWord 0xB2F0#16 = .ok (.jpV0 0x2F0#12 2#4) ∧
  decodeWord 0xC40F#16 = .ok (.rnd 4#4 0x0F#8) ∧ decodeWord 0xD011#16 = .ok (.drw 0#4 1#4 1#4) ∧
  decodeWord 0xE2A1#16 = .ok (.sknp 2#4) ∧ decodeWord 0xFA33#16 = .ok (.ldB 0xA#4) ∧
  decodeWord 0x8128#16 = .error (.unknownOpcode 0x8128#16)
end

