-- ==== Sys2Proof/Laws/Decode.lean ====
section
/-! SUPPORT. The fields of a word put together from fields (30_encoding.md R55), and a word put together from its own fields. -/

namespace Sys2Proof

theorem fieldF_addr (f : Nibble) (nnn : Addr) : fieldF (f ++ nnn) = f := by
  ext i hi; simp [fieldF]; grind

theorem fieldNNN_addr (f : Nibble) (nnn : Addr) : fieldNNN (f ++ nnn) = nnn := by
  ext i hi; simp [fieldNNN]; grind

theorem fieldF_byte (f x : Nibble) (nn : Byte) : fieldF (f ++ x ++ nn) = f := by
  ext i hi; simp [fieldF]; grind

theorem fieldX_byte (f x : Nibble) (nn : Byte) : fieldX (f ++ x ++ nn) = x := by
  ext i hi; simp [fieldX]; grind

theorem fieldNN_byte (f x : Nibble) (nn : Byte) : fieldNN (f ++ x ++ nn) = nn := by
  ext i hi; simp [fieldNN]; grind

theorem fieldF_nibble (f x y n : Nibble) : fieldF (f ++ x ++ y ++ n) = f := by
  ext i hi; simp [fieldF]; grind

theorem fieldX_nibble (f x y n : Nibble) : fieldX (f ++ x ++ y ++ n) = x := by
  ext i hi; simp [fieldX]; grind

theorem fieldY_nibble (f x y n : Nibble) : fieldY (f ++ x ++ y ++ n) = y := by
  ext i hi; simp [fieldY]; grind

theorem fieldN_nibble (f x y n : Nibble) : fieldN (f ++ x ++ y ++ n) = n := by
  ext i hi; simp [fieldN]; grind

/-- The field X of an address word is the top nibble of NNN. -/
theorem fieldX_addr (f : Nibble) (nnn : Addr) : fieldX (f ++ nnn) = nnn.extractLsb' 8 4 := by
  ext i hi; simp [fieldX]; grind

/-- A word is its family and its address field. -/
theorem word_eq_addr (w : Word) : fieldF w ++ fieldNNN w = w := by
  ext i hi; simp [fieldF, fieldNNN]; grind

/-- A word is its family, X and low byte. -/
theorem word_eq_byte (w : Word) : fieldF w ++ fieldX w ++ fieldNN w = w := by
  ext i hi; simp [fieldF, fieldX, fieldNN]; grind

/-- A word is its four nibbles. -/
theorem word_eq_nibble (w : Word) : fieldF w ++ fieldX w ++ fieldY w ++ fieldN w = w := by
  ext i hi; simp [fieldF, fieldX, fieldY, fieldN]; grind

/-- The bytes of a word in memory order make the word again (20_memory.md R45). -/
theorem decode_bytesOfWord (w : Word) (rest : List Byte) :
    decode (bytesOfWord w ++ rest) = (decodeWord w).map (·, rest) := by
  have h : wordOfBytes (w.extractLsb' 8 8) (w.extractLsb' 0 8) = w := by
    ext i hi; simp [wordOfBytes]; grind
  simp only [bytesOfWord, List.cons_append, List.nil_append, decode, h]
  cases decodeWord w <;> rfl

end Sys2Proof
end

