-- ==== Sys2Proof/Laws/Memory.lean ====
section
/-! SUPPORT. Memory: a read after a write (20_memory.md R48), and the canonical form, which every memory operation keeps. -/

namespace Sys2Proof.Machine

theorem Memory.read_without (m : Memory) (a b : Nat) :
    (m.without a).read b = if b = a then resetByte b else m.read b := by
  induction m with
  | nil => simp [Memory.without, Memory.read]
  | cons c m ih =>
    obtain ⟨c, w⟩ := c
    by_cases h : c = a
    · subst h
      rw [show Memory.without ((c, w) :: m) c = Memory.without m c by simp [Memory.without], ih]
      simp only [Memory.read]
      split <;> rfl
    · rw [show Memory.without ((c, w) :: m) a = (c, w) :: Memory.without m a by simp [Memory.without, h]]
      simp only [Memory.read, ih]
      by_cases hb : b = c
      · subst hb; simp [h]
      · simp [hb]

theorem Memory.read_place (m : Memory) (a b : Nat) (v : Byte) (hm : ∀ c ∈ m, c.1 ≠ a) :
    (m.place a v).read b = if b = a then v else m.read b := by
  induction m with
  | nil => simp [Memory.place, Memory.read]
  | cons c m ih =>
    obtain ⟨c, w⟩ := c
    have hc : c ≠ a := hm (c, w) (by simp)
    have ih := ih fun d hd => hm d (by simp [hd])
    unfold Memory.place
    split
    · simp [Memory.read]
    · simp only [Memory.read, ih]
      by_cases hb : b = c
      · subst hb; simp [hc]
      · simp [hb]

/-- A read after a write gives the value written at its address, and every other address reads as before. -/
theorem Memory.read_write (m : Memory) (a b : Nat) (v : Byte) :
    (m.write a v).read b = if b = a then v else m.read b := by
  unfold Memory.write
  split
  · rename_i h
    rw [Memory.read_without]
    split
    · rename_i hb; rw [hb, h]
    · rfl
  · rw [Memory.read_place _ _ _ _ (by simp [Memory.without]), Memory.read_without]
    split <;> rfl

/-- The reads after a run of one-byte writes. -/
theorem Memory.read_writeBytes (m : Memory) (base a : Nat) (bs : List Byte) :
    (m.writeBytes base bs).read a =
      if base ≤ a ∧ a < base + bs.length then bs.getD (a - base) 0#8 else m.read a := by
  induction bs generalizing m base with
  | nil => simp [Memory.writeBytes]
  | cons b bs ih =>
    simp only [Memory.writeBytes, ih, Memory.read_write, List.length_cons]
    rcases Nat.lt_trichotomy a base with h | h | h
    · rw [if_neg (by omega), if_neg (by omega), if_neg (by omega)]
    · subst h; simp
    · obtain ⟨d, rfl⟩ : ∃ d, a = base + 1 + d := ⟨a - (base + 1), by omega⟩
      have h1 : base + 1 + d - (base + 1) = d := by omega
      have h2 : base + 1 + d - base = d + 1 := by omega
      rw [h1, h2, List.getD_cons_succ, if_neg (by omega : ¬ base + 1 + d = base)]
      exact if_congr (by omega) rfl rfl

/-- The bytes read at ascending addresses. -/
theorem Memory.getD_readBytes (m : Memory) (base n k : Nat) (h : k < n) :
    (m.readBytes base n).getD k 0#8 = m.read (base + k) := by
  induction n generalizing base k with
  | zero => omega
  | succ n ih =>
    cases k with
    | zero => rfl
    | succ k =>
      simp only [Memory.readBytes, List.getD_cons_succ]
      rw [ih (base + 1) k (by omega)]
      congr 1; omega

@[simp] theorem Memory.length_readBytes (m : Memory) (base n : Nat) : (m.readBytes base n).length = n := by
  induction n generalizing base with
  | zero => rfl
  | succ n ih => simp [Memory.readBytes, ih]

/-- The canonical form from a higher address is one from any lower address. -/
theorem Memory.wfFrom_mono {lo hi : Nat} {m : Memory} (h : lo ≤ hi) (hm : m.wfFrom hi = true) : m.wfFrom lo = true := by
  cases m with
  | nil => rfl
  | cons c m => simp [Memory.wfFrom] at hm ⊢; exact ⟨⟨⟨by omega, hm.1.1.2⟩, hm.1.2⟩, hm.2⟩

theorem Memory.wfFrom_without {lo : Nat} (m : Memory) (a : Nat) (hm : m.wfFrom lo = true) :
    (m.without a).wfFrom lo = true := by
  induction m generalizing lo with
  | nil => rfl
  | cons c m ih =>
    obtain ⟨c, w⟩ := c
    simp only [Memory.wfFrom, Bool.and_eq_true] at hm
    by_cases h : c = a
    · rw [show Memory.without ((c, w) :: m) a = Memory.without m a by simp [Memory.without, h]]
      have : lo ≤ c := by simpa using hm.1.1.1
      exact wfFrom_mono (by omega) (ih hm.2)
    · rw [show Memory.without ((c, w) :: m) a = (c, w) :: Memory.without m a by simp [Memory.without, h]]
      simp only [Memory.wfFrom, Bool.and_eq_true]
      exact ⟨hm.1, ih hm.2⟩

theorem Memory.wfFrom_place {lo a : Nat} {v : Byte} (m : Memory) (hlo : lo ≤ a) (ha : a < Config.memSize)
    (hv : v ≠ resetByte a) (hne : ∀ c ∈ m, c.1 ≠ a) (hm : m.wfFrom lo = true) : (m.place a v).wfFrom lo = true := by
  induction m generalizing lo with
  | nil => simp [Memory.place, Memory.wfFrom, hlo, ha, hv]
  | cons c m ih =>
    obtain ⟨c, w⟩ := c
    have hc : c ≠ a := hne (c, w) (by simp)
    have hm' := hm
    simp only [Memory.wfFrom, Bool.and_eq_true, decide_eq_true_eq, bne_iff_ne] at hm
    obtain ⟨⟨⟨h1, h2⟩, h3⟩, h4⟩ := hm
    unfold Memory.place
    split
    · simp only [Memory.wfFrom, Bool.and_eq_true, decide_eq_true_eq, bne_iff_ne]
      exact ⟨⟨⟨hlo, ha⟩, hv⟩, ⟨⟨⟨by omega, h2⟩, h3⟩, h4⟩⟩
    · simp only [Memory.wfFrom, Bool.and_eq_true, decide_eq_true_eq, bne_iff_ne]
      exact ⟨⟨⟨h1, h2⟩, h3⟩, ih (by omega) (fun d hd => hne d (by simp [hd])) h4⟩

/-- `write` keeps the canonical form. -/
theorem Memory.wf_write {a : Nat} {v : Byte} {m : Memory} (ha : a < Config.memSize) (hm : m.wf = true) :
    (m.write a v).wf = true := by
  unfold Memory.write
  split
  · exact wfFrom_without m a hm
  · exact wfFrom_place _ (Nat.zero_le a) ha ‹_› (by simp [Memory.without]) (wfFrom_without m a hm)

/-- `writeBytes` within memory keeps the canonical form. -/
theorem Memory.wf_writeBytes {base : Nat} {bs : List Byte} {m : Memory} (h : base + bs.length ≤ Config.memSize)
    (hm : m.wf = true) : (m.writeBytes base bs).wf = true := by
  induction bs generalizing m base with
  | nil => exact hm
  | cons b bs ih =>
    simp only [List.length_cons] at h
    exact ih (by omega) (wf_write (by omega) hm)

/-- The reset memory has the canonical form. -/
theorem Memory.wf_reset : Memory.wf State.reset.mem = true := rfl

/-- The bounds check passes exactly when every address is below 4096 (R40, R42). -/
theorem firstInvalid_eq_none {base n : Nat} : firstInvalid base n = none ↔ n = 0 ∨ base + n ≤ Config.memSize := by
  unfold firstInvalid; split <;> simp_all

/-- Where the bounds check fails, it answers the first invalid address. -/
theorem firstInvalid_eq_some {base n a : Nat} :
    firstInvalid base n = some a ↔ n ≠ 0 ∧ Config.memSize < base + n ∧ a = max base Config.memSize := by
  unfold firstInvalid; split <;> simp_all <;> omega

end Sys2Proof.Machine
end

