-- ==== Sys2Proof/Laws/State.lean ====
section
/-! SUPPORT. The fields of an updated state, one lemma per field per update, each true by rfl: no later proof unfolds a record
update. -/

namespace Sys2Proof.Machine

variable (s : State)

/-! ### setReg -/

@[simp] theorem State.setReg_v (x : Reg) (b : Byte) : (s.setReg x b).v = s.v.set x.toNat b x.isLt := rfl
@[simp] theorem State.setReg_i (x : Reg) (b : Byte) : (s.setReg x b).i = s.i := rfl
@[simp] theorem State.setReg_pc (x : Reg) (b : Byte) : (s.setReg x b).pc = s.pc := rfl
@[simp] theorem State.setReg_sp (x : Reg) (b : Byte) : (s.setReg x b).sp = s.sp := rfl
@[simp] theorem State.setReg_stack (x : Reg) (b : Byte) : (s.setReg x b).stack = s.stack := rfl
@[simp] theorem State.setReg_dt (x : Reg) (b : Byte) : (s.setReg x b).dt = s.dt := rfl
@[simp] theorem State.setReg_st (x : Reg) (b : Byte) : (s.setReg x b).st = s.st := rfl
@[simp] theorem State.setReg_acc (x : Reg) (b : Byte) : (s.setReg x b).acc = s.acc := rfl
@[simp] theorem State.setReg_wait (x : Reg) (b : Byte) : (s.setReg x b).wait = s.wait := rfl
@[simp] theorem State.setReg_wreg (x : Reg) (b : Byte) : (s.setReg x b).wreg = s.wreg := rfl
@[simp] theorem State.setReg_mem (x : Reg) (b : Byte) : (s.setReg x b).mem = s.mem := rfl
@[simp] theorem State.setReg_fb (x : Reg) (b : Byte) : (s.setReg x b).fb = s.fb := rfl
@[simp] theorem State.setReg_fault (x : Reg) (b : Byte) : (s.setReg x b).fault = s.fault := rfl
@[simp] theorem State.setReg_cfg (x : Reg) (b : Byte) : (s.setReg x b).cfg = s.cfg := rfl
@[simp] theorem State.setReg_caller (x : Reg) (b : Byte) : (s.setReg x b).caller = s.caller := rfl
@[simp] theorem State.setReg_ix (x : Reg) (b : Byte) : (s.setReg x b).ix = s.ix := rfl
@[simp] theorem State.setReg_out (x : Reg) (b : Byte) : (s.setReg x b).out = s.out := rfl

/-! ### setI -/

@[simp] theorem State.setI_v (w : Word) : (s.setI w).v = s.v := rfl
@[simp] theorem State.setI_i (w : Word) : (s.setI w).i = w := rfl
@[simp] theorem State.setI_pc (w : Word) : (s.setI w).pc = s.pc := rfl
@[simp] theorem State.setI_sp (w : Word) : (s.setI w).sp = s.sp := rfl
@[simp] theorem State.setI_stack (w : Word) : (s.setI w).stack = s.stack := rfl
@[simp] theorem State.setI_dt (w : Word) : (s.setI w).dt = s.dt := rfl
@[simp] theorem State.setI_st (w : Word) : (s.setI w).st = s.st := rfl
@[simp] theorem State.setI_acc (w : Word) : (s.setI w).acc = s.acc := rfl
@[simp] theorem State.setI_wait (w : Word) : (s.setI w).wait = s.wait := rfl
@[simp] theorem State.setI_wreg (w : Word) : (s.setI w).wreg = s.wreg := rfl
@[simp] theorem State.setI_mem (w : Word) : (s.setI w).mem = s.mem := rfl
@[simp] theorem State.setI_fb (w : Word) : (s.setI w).fb = s.fb := rfl
@[simp] theorem State.setI_fault (w : Word) : (s.setI w).fault = s.fault := rfl
@[simp] theorem State.setI_cfg (w : Word) : (s.setI w).cfg = s.cfg := rfl
@[simp] theorem State.setI_caller (w : Word) : (s.setI w).caller = s.caller := rfl
@[simp] theorem State.setI_ix (w : Word) : (s.setI w).ix = s.ix := rfl
@[simp] theorem State.setI_out (w : Word) : (s.setI w).out = s.out := rfl

/-! ### setPc -/

@[simp] theorem State.setPc_v (w : Word) : (s.setPc w).v = s.v := rfl
@[simp] theorem State.setPc_i (w : Word) : (s.setPc w).i = s.i := rfl
@[simp] theorem State.setPc_pc (w : Word) : (s.setPc w).pc = w := rfl
@[simp] theorem State.setPc_sp (w : Word) : (s.setPc w).sp = s.sp := rfl
@[simp] theorem State.setPc_stack (w : Word) : (s.setPc w).stack = s.stack := rfl
@[simp] theorem State.setPc_dt (w : Word) : (s.setPc w).dt = s.dt := rfl
@[simp] theorem State.setPc_st (w : Word) : (s.setPc w).st = s.st := rfl
@[simp] theorem State.setPc_acc (w : Word) : (s.setPc w).acc = s.acc := rfl
@[simp] theorem State.setPc_wait (w : Word) : (s.setPc w).wait = s.wait := rfl
@[simp] theorem State.setPc_wreg (w : Word) : (s.setPc w).wreg = s.wreg := rfl
@[simp] theorem State.setPc_mem (w : Word) : (s.setPc w).mem = s.mem := rfl
@[simp] theorem State.setPc_fb (w : Word) : (s.setPc w).fb = s.fb := rfl
@[simp] theorem State.setPc_fault (w : Word) : (s.setPc w).fault = s.fault := rfl
@[simp] theorem State.setPc_cfg (w : Word) : (s.setPc w).cfg = s.cfg := rfl
@[simp] theorem State.setPc_caller (w : Word) : (s.setPc w).caller = s.caller := rfl
@[simp] theorem State.setPc_ix (w : Word) : (s.setPc w).ix = s.ix := rfl
@[simp] theorem State.setPc_out (w : Word) : (s.setPc w).out = s.out := rfl

/-! ### setDt -/

@[simp] theorem State.setDt_v (b : Byte) : (s.setDt b).v = s.v := rfl
@[simp] theorem State.setDt_i (b : Byte) : (s.setDt b).i = s.i := rfl
@[simp] theorem State.setDt_pc (b : Byte) : (s.setDt b).pc = s.pc := rfl
@[simp] theorem State.setDt_sp (b : Byte) : (s.setDt b).sp = s.sp := rfl
@[simp] theorem State.setDt_stack (b : Byte) : (s.setDt b).stack = s.stack := rfl
@[simp] theorem State.setDt_dt (b : Byte) : (s.setDt b).dt = b := rfl
@[simp] theorem State.setDt_st (b : Byte) : (s.setDt b).st = s.st := rfl
@[simp] theorem State.setDt_acc (b : Byte) : (s.setDt b).acc = s.acc := rfl
@[simp] theorem State.setDt_wait (b : Byte) : (s.setDt b).wait = s.wait := rfl
@[simp] theorem State.setDt_wreg (b : Byte) : (s.setDt b).wreg = s.wreg := rfl
@[simp] theorem State.setDt_mem (b : Byte) : (s.setDt b).mem = s.mem := rfl
@[simp] theorem State.setDt_fb (b : Byte) : (s.setDt b).fb = s.fb := rfl
@[simp] theorem State.setDt_fault (b : Byte) : (s.setDt b).fault = s.fault := rfl
@[simp] theorem State.setDt_cfg (b : Byte) : (s.setDt b).cfg = s.cfg := rfl
@[simp] theorem State.setDt_caller (b : Byte) : (s.setDt b).caller = s.caller := rfl
@[simp] theorem State.setDt_ix (b : Byte) : (s.setDt b).ix = s.ix := rfl
@[simp] theorem State.setDt_out (b : Byte) : (s.setDt b).out = s.out := rfl

/-! ### setSt -/

@[simp] theorem State.setSt_v (b : Byte) : (s.setSt b).v = s.v := rfl
@[simp] theorem State.setSt_i (b : Byte) : (s.setSt b).i = s.i := rfl
@[simp] theorem State.setSt_pc (b : Byte) : (s.setSt b).pc = s.pc := rfl
@[simp] theorem State.setSt_sp (b : Byte) : (s.setSt b).sp = s.sp := rfl
@[simp] theorem State.setSt_stack (b : Byte) : (s.setSt b).stack = s.stack := rfl
@[simp] theorem State.setSt_dt (b : Byte) : (s.setSt b).dt = s.dt := rfl
@[simp] theorem State.setSt_st (b : Byte) : (s.setSt b).st = b := rfl
@[simp] theorem State.setSt_acc (b : Byte) : (s.setSt b).acc = s.acc := rfl
@[simp] theorem State.setSt_wait (b : Byte) : (s.setSt b).wait = s.wait := rfl
@[simp] theorem State.setSt_wreg (b : Byte) : (s.setSt b).wreg = s.wreg := rfl
@[simp] theorem State.setSt_mem (b : Byte) : (s.setSt b).mem = s.mem := rfl
@[simp] theorem State.setSt_fb (b : Byte) : (s.setSt b).fb = s.fb := rfl
@[simp] theorem State.setSt_fault (b : Byte) : (s.setSt b).fault = s.fault := rfl
@[simp] theorem State.setSt_cfg (b : Byte) : (s.setSt b).cfg = s.cfg := rfl
@[simp] theorem State.setSt_caller (b : Byte) : (s.setSt b).caller = s.caller := rfl
@[simp] theorem State.setSt_ix (b : Byte) : (s.setSt b).ix = s.ix := rfl
@[simp] theorem State.setSt_out (b : Byte) : (s.setSt b).out = s.out := rfl

/-! ### skipIf -/

@[simp] theorem State.skipIf_v (c : Bool) : (s.skipIf c).v = s.v := rfl
@[simp] theorem State.skipIf_i (c : Bool) : (s.skipIf c).i = s.i := rfl
@[simp] theorem State.skipIf_pc (c : Bool) : (s.skipIf c).pc = if c then s.pc + 2#16 else s.pc := rfl
@[simp] theorem State.skipIf_sp (c : Bool) : (s.skipIf c).sp = s.sp := rfl
@[simp] theorem State.skipIf_stack (c : Bool) : (s.skipIf c).stack = s.stack := rfl
@[simp] theorem State.skipIf_dt (c : Bool) : (s.skipIf c).dt = s.dt := rfl
@[simp] theorem State.skipIf_st (c : Bool) : (s.skipIf c).st = s.st := rfl
@[simp] theorem State.skipIf_acc (c : Bool) : (s.skipIf c).acc = s.acc := rfl
@[simp] theorem State.skipIf_wait (c : Bool) : (s.skipIf c).wait = s.wait := rfl
@[simp] theorem State.skipIf_wreg (c : Bool) : (s.skipIf c).wreg = s.wreg := rfl
@[simp] theorem State.skipIf_mem (c : Bool) : (s.skipIf c).mem = s.mem := rfl
@[simp] theorem State.skipIf_fb (c : Bool) : (s.skipIf c).fb = s.fb := rfl
@[simp] theorem State.skipIf_fault (c : Bool) : (s.skipIf c).fault = s.fault := rfl
@[simp] theorem State.skipIf_cfg (c : Bool) : (s.skipIf c).cfg = s.cfg := rfl
@[simp] theorem State.skipIf_caller (c : Bool) : (s.skipIf c).caller = s.caller := rfl
@[simp] theorem State.skipIf_ix (c : Bool) : (s.skipIf c).ix = s.ix := rfl
@[simp] theorem State.skipIf_out (c : Bool) : (s.skipIf c).out = s.out := rfl

/-! ### pushJump -/

@[simp] theorem State.pushJump_v (w : Word) : (s.pushJump w).v = s.v := rfl
@[simp] theorem State.pushJump_i (w : Word) : (s.pushJump w).i = s.i := rfl
@[simp] theorem State.pushJump_pc (w : Word) : (s.pushJump w).pc = w := rfl
@[simp] theorem State.pushJump_sp (w : Word) : (s.pushJump w).sp = Fin.ofNat 17 (s.sp.val + 1) := rfl
@[simp] theorem State.pushJump_stack (w : Word) : (s.pushJump w).stack = s.stack.setIfInBounds s.sp.val s.pc := rfl
@[simp] theorem State.pushJump_dt (w : Word) : (s.pushJump w).dt = s.dt := rfl
@[simp] theorem State.pushJump_st (w : Word) : (s.pushJump w).st = s.st := rfl
@[simp] theorem State.pushJump_acc (w : Word) : (s.pushJump w).acc = s.acc := rfl
@[simp] theorem State.pushJump_wait (w : Word) : (s.pushJump w).wait = s.wait := rfl
@[simp] theorem State.pushJump_wreg (w : Word) : (s.pushJump w).wreg = s.wreg := rfl
@[simp] theorem State.pushJump_mem (w : Word) : (s.pushJump w).mem = s.mem := rfl
@[simp] theorem State.pushJump_fb (w : Word) : (s.pushJump w).fb = s.fb := rfl
@[simp] theorem State.pushJump_fault (w : Word) : (s.pushJump w).fault = s.fault := rfl
@[simp] theorem State.pushJump_cfg (w : Word) : (s.pushJump w).cfg = s.cfg := rfl
@[simp] theorem State.pushJump_caller (w : Word) : (s.pushJump w).caller = s.caller := rfl
@[simp] theorem State.pushJump_ix (w : Word) : (s.pushJump w).ix = s.ix := rfl
@[simp] theorem State.pushJump_out (w : Word) : (s.pushJump w).out = s.out := rfl

/-! ### popJump -/

@[simp] theorem State.popJump_v : (s.popJump).v = s.v := rfl
@[simp] theorem State.popJump_i : (s.popJump).i = s.i := rfl
@[simp] theorem State.popJump_pc : (s.popJump).pc = s.slot (s.sp.val - 1) := rfl
@[simp] theorem State.popJump_sp : (s.popJump).sp = Fin.ofNat 17 (s.sp.val - 1) := rfl
@[simp] theorem State.popJump_stack : (s.popJump).stack = s.stack := rfl
@[simp] theorem State.popJump_dt : (s.popJump).dt = s.dt := rfl
@[simp] theorem State.popJump_st : (s.popJump).st = s.st := rfl
@[simp] theorem State.popJump_acc : (s.popJump).acc = s.acc := rfl
@[simp] theorem State.popJump_wait : (s.popJump).wait = s.wait := rfl
@[simp] theorem State.popJump_wreg : (s.popJump).wreg = s.wreg := rfl
@[simp] theorem State.popJump_mem : (s.popJump).mem = s.mem := rfl
@[simp] theorem State.popJump_fb : (s.popJump).fb = s.fb := rfl
@[simp] theorem State.popJump_fault : (s.popJump).fault = s.fault := rfl
@[simp] theorem State.popJump_cfg : (s.popJump).cfg = s.cfg := rfl
@[simp] theorem State.popJump_caller : (s.popJump).caller = s.caller := rfl
@[simp] theorem State.popJump_ix : (s.popJump).ix = s.ix := rfl
@[simp] theorem State.popJump_out : (s.popJump).out = s.out := rfl

/-! ### latch -/

@[simp] theorem State.latch_v (k : Fault) : (s.latch k).v = s.v := rfl
@[simp] theorem State.latch_i (k : Fault) : (s.latch k).i = s.i := rfl
@[simp] theorem State.latch_pc (k : Fault) : (s.latch k).pc = s.pc := rfl
@[simp] theorem State.latch_sp (k : Fault) : (s.latch k).sp = s.sp := rfl
@[simp] theorem State.latch_stack (k : Fault) : (s.latch k).stack = s.stack := rfl
@[simp] theorem State.latch_dt (k : Fault) : (s.latch k).dt = s.dt := rfl
@[simp] theorem State.latch_st (k : Fault) : (s.latch k).st = s.st := rfl
@[simp] theorem State.latch_acc (k : Fault) : (s.latch k).acc = s.acc := rfl
@[simp] theorem State.latch_wait (k : Fault) : (s.latch k).wait = s.wait := rfl
@[simp] theorem State.latch_wreg (k : Fault) : (s.latch k).wreg = s.wreg := rfl
@[simp] theorem State.latch_mem (k : Fault) : (s.latch k).mem = s.mem := rfl
@[simp] theorem State.latch_fb (k : Fault) : (s.latch k).fb = s.fb := rfl
@[simp] theorem State.latch_fault (k : Fault) : (s.latch k).fault = some k := rfl
@[simp] theorem State.latch_cfg (k : Fault) : (s.latch k).cfg = s.cfg := rfl
@[simp] theorem State.latch_caller (k : Fault) : (s.latch k).caller = s.caller := rfl
@[simp] theorem State.latch_ix (k : Fault) : (s.latch k).ix = s.ix := rfl
@[simp] theorem State.latch_out (k : Fault) : (s.latch k).out = [] := rfl

/-! ### raise -/

@[simp] theorem State.raise_v (k : Fault) : (s.raise k).v = s.v := rfl
@[simp] theorem State.raise_i (k : Fault) : (s.raise k).i = s.i := rfl
@[simp] theorem State.raise_pc (k : Fault) : (s.raise k).pc = s.pc - 2#16 := rfl
@[simp] theorem State.raise_sp (k : Fault) : (s.raise k).sp = s.sp := rfl
@[simp] theorem State.raise_stack (k : Fault) : (s.raise k).stack = s.stack := rfl
@[simp] theorem State.raise_dt (k : Fault) : (s.raise k).dt = s.dt := rfl
@[simp] theorem State.raise_st (k : Fault) : (s.raise k).st = s.st := rfl
@[simp] theorem State.raise_acc (k : Fault) : (s.raise k).acc = s.acc := rfl
@[simp] theorem State.raise_wait (k : Fault) : (s.raise k).wait = s.wait := rfl
@[simp] theorem State.raise_wreg (k : Fault) : (s.raise k).wreg = s.wreg := rfl
@[simp] theorem State.raise_mem (k : Fault) : (s.raise k).mem = s.mem := rfl
@[simp] theorem State.raise_fb (k : Fault) : (s.raise k).fb = s.fb := rfl
@[simp] theorem State.raise_fault (k : Fault) : (s.raise k).fault = some k := rfl
@[simp] theorem State.raise_cfg (k : Fault) : (s.raise k).cfg = s.cfg := rfl
@[simp] theorem State.raise_caller (k : Fault) : (s.raise k).caller = s.caller := rfl
@[simp] theorem State.raise_ix (k : Fault) : (s.raise k).ix = s.ix := rfl
@[simp] theorem State.raise_out (k : Fault) : (s.raise k).out = [] := rfl

/-! ### emit -/

@[simp] theorem State.emit_v (o : Output) : (s.emit o).v = s.v := rfl
@[simp] theorem State.emit_i (o : Output) : (s.emit o).i = s.i := rfl
@[simp] theorem State.emit_pc (o : Output) : (s.emit o).pc = s.pc := rfl
@[simp] theorem State.emit_sp (o : Output) : (s.emit o).sp = s.sp := rfl
@[simp] theorem State.emit_stack (o : Output) : (s.emit o).stack = s.stack := rfl
@[simp] theorem State.emit_dt (o : Output) : (s.emit o).dt = s.dt := rfl
@[simp] theorem State.emit_st (o : Output) : (s.emit o).st = s.st := rfl
@[simp] theorem State.emit_acc (o : Output) : (s.emit o).acc = s.acc := rfl
@[simp] theorem State.emit_wait (o : Output) : (s.emit o).wait = s.wait := rfl
@[simp] theorem State.emit_wreg (o : Output) : (s.emit o).wreg = s.wreg := rfl
@[simp] theorem State.emit_mem (o : Output) : (s.emit o).mem = s.mem := rfl
@[simp] theorem State.emit_fb (o : Output) : (s.emit o).fb = s.fb := rfl
@[simp] theorem State.emit_fault (o : Output) : (s.emit o).fault = s.fault := rfl
@[simp] theorem State.emit_cfg (o : Output) : (s.emit o).cfg = s.cfg := rfl
@[simp] theorem State.emit_caller (o : Output) : (s.emit o).caller = s.caller := rfl
@[simp] theorem State.emit_ix (o : Output) : (s.emit o).ix = s.ix := rfl
@[simp] theorem State.emit_out (o : Output) : (s.emit o).out = s.out ++ [o] := rfl

/-! ### storeAtI -/

@[simp] theorem State.storeAtI_v (bs : List Byte) : (s.storeAtI bs).v = s.v := rfl
@[simp] theorem State.storeAtI_i (bs : List Byte) : (s.storeAtI bs).i = s.i := rfl
@[simp] theorem State.storeAtI_pc (bs : List Byte) : (s.storeAtI bs).pc = s.pc := rfl
@[simp] theorem State.storeAtI_sp (bs : List Byte) : (s.storeAtI bs).sp = s.sp := rfl
@[simp] theorem State.storeAtI_stack (bs : List Byte) : (s.storeAtI bs).stack = s.stack := rfl
@[simp] theorem State.storeAtI_dt (bs : List Byte) : (s.storeAtI bs).dt = s.dt := rfl
@[simp] theorem State.storeAtI_st (bs : List Byte) : (s.storeAtI bs).st = s.st := rfl
@[simp] theorem State.storeAtI_acc (bs : List Byte) : (s.storeAtI bs).acc = s.acc := rfl
@[simp] theorem State.storeAtI_wait (bs : List Byte) : (s.storeAtI bs).wait = s.wait := rfl
@[simp] theorem State.storeAtI_wreg (bs : List Byte) : (s.storeAtI bs).wreg = s.wreg := rfl
@[simp] theorem State.storeAtI_mem (bs : List Byte) : (s.storeAtI bs).mem = s.mem.writeBytes s.i.toNat bs := rfl
@[simp] theorem State.storeAtI_fb (bs : List Byte) : (s.storeAtI bs).fb = s.fb := rfl
@[simp] theorem State.storeAtI_fault (bs : List Byte) : (s.storeAtI bs).fault = s.fault := rfl
@[simp] theorem State.storeAtI_cfg (bs : List Byte) : (s.storeAtI bs).cfg = s.cfg := rfl
@[simp] theorem State.storeAtI_caller (bs : List Byte) : (s.storeAtI bs).caller = s.caller := rfl
@[simp] theorem State.storeAtI_ix (bs : List Byte) : (s.storeAtI bs).ix = s.ix := rfl
@[simp] theorem State.storeAtI_out (bs : List Byte) : (s.storeAtI bs).out = s.out := rfl

/-! ### loadRegsAtI -/

@[simp] theorem State.loadRegsAtI_v (x : Reg) : (s.loadRegsAtI x).v = Vector.ofFn fun k => if k.val ≤ x.toNat then s.mem.read (s.i.toNat + k.val) else s.v[k] := rfl
@[simp] theorem State.loadRegsAtI_i (x : Reg) : (s.loadRegsAtI x).i = s.i := rfl
@[simp] theorem State.loadRegsAtI_pc (x : Reg) : (s.loadRegsAtI x).pc = s.pc := rfl
@[simp] theorem State.loadRegsAtI_sp (x : Reg) : (s.loadRegsAtI x).sp = s.sp := rfl
@[simp] theorem State.loadRegsAtI_stack (x : Reg) : (s.loadRegsAtI x).stack = s.stack := rfl
@[simp] theorem State.loadRegsAtI_dt (x : Reg) : (s.loadRegsAtI x).dt = s.dt := rfl
@[simp] theorem State.loadRegsAtI_st (x : Reg) : (s.loadRegsAtI x).st = s.st := rfl
@[simp] theorem State.loadRegsAtI_acc (x : Reg) : (s.loadRegsAtI x).acc = s.acc := rfl
@[simp] theorem State.loadRegsAtI_wait (x : Reg) : (s.loadRegsAtI x).wait = s.wait := rfl
@[simp] theorem State.loadRegsAtI_wreg (x : Reg) : (s.loadRegsAtI x).wreg = s.wreg := rfl
@[simp] theorem State.loadRegsAtI_mem (x : Reg) : (s.loadRegsAtI x).mem = s.mem := rfl
@[simp] theorem State.loadRegsAtI_fb (x : Reg) : (s.loadRegsAtI x).fb = s.fb := rfl
@[simp] theorem State.loadRegsAtI_fault (x : Reg) : (s.loadRegsAtI x).fault = s.fault := rfl
@[simp] theorem State.loadRegsAtI_cfg (x : Reg) : (s.loadRegsAtI x).cfg = s.cfg := rfl
@[simp] theorem State.loadRegsAtI_caller (x : Reg) : (s.loadRegsAtI x).caller = s.caller := rfl
@[simp] theorem State.loadRegsAtI_ix (x : Reg) : (s.loadRegsAtI x).ix = s.ix := rfl
@[simp] theorem State.loadRegsAtI_out (x : Reg) : (s.loadRegsAtI x).out = s.out := rfl

/-! ### clearDisplay -/

@[simp] theorem State.clearDisplay_v : (s.clearDisplay).v = s.v := rfl
@[simp] theorem State.clearDisplay_i : (s.clearDisplay).i = s.i := rfl
@[simp] theorem State.clearDisplay_pc : (s.clearDisplay).pc = s.pc := rfl
@[simp] theorem State.clearDisplay_sp : (s.clearDisplay).sp = s.sp := rfl
@[simp] theorem State.clearDisplay_stack : (s.clearDisplay).stack = s.stack := rfl
@[simp] theorem State.clearDisplay_dt : (s.clearDisplay).dt = s.dt := rfl
@[simp] theorem State.clearDisplay_st : (s.clearDisplay).st = s.st := rfl
@[simp] theorem State.clearDisplay_acc : (s.clearDisplay).acc = s.acc := rfl
@[simp] theorem State.clearDisplay_wait : (s.clearDisplay).wait = s.wait := rfl
@[simp] theorem State.clearDisplay_wreg : (s.clearDisplay).wreg = s.wreg := rfl
@[simp] theorem State.clearDisplay_mem : (s.clearDisplay).mem = s.mem := rfl
@[simp] theorem State.clearDisplay_fb : (s.clearDisplay).fb = FrameBuffer.blank := rfl
@[simp] theorem State.clearDisplay_fault : (s.clearDisplay).fault = s.fault := rfl
@[simp] theorem State.clearDisplay_cfg : (s.clearDisplay).cfg = s.cfg := rfl
@[simp] theorem State.clearDisplay_caller : (s.clearDisplay).caller = s.caller := rfl
@[simp] theorem State.clearDisplay_ix : (s.clearDisplay).ix = s.ix := rfl
@[simp] theorem State.clearDisplay_out : (s.clearDisplay).out = s.out ++ [.clear] := rfl

/-! ### showDrawn -/

@[simp] theorem State.showDrawn_v (after : FrameBuffer) : (s.showDrawn after).v = s.v := rfl
@[simp] theorem State.showDrawn_i (after : FrameBuffer) : (s.showDrawn after).i = s.i := rfl
@[simp] theorem State.showDrawn_pc (after : FrameBuffer) : (s.showDrawn after).pc = s.pc := rfl
@[simp] theorem State.showDrawn_sp (after : FrameBuffer) : (s.showDrawn after).sp = s.sp := rfl
@[simp] theorem State.showDrawn_stack (after : FrameBuffer) : (s.showDrawn after).stack = s.stack := rfl
@[simp] theorem State.showDrawn_dt (after : FrameBuffer) : (s.showDrawn after).dt = s.dt := rfl
@[simp] theorem State.showDrawn_st (after : FrameBuffer) : (s.showDrawn after).st = s.st := rfl
@[simp] theorem State.showDrawn_acc (after : FrameBuffer) : (s.showDrawn after).acc = s.acc := rfl
@[simp] theorem State.showDrawn_wait (after : FrameBuffer) : (s.showDrawn after).wait = s.wait := rfl
@[simp] theorem State.showDrawn_wreg (after : FrameBuffer) : (s.showDrawn after).wreg = s.wreg := rfl
@[simp] theorem State.showDrawn_mem (after : FrameBuffer) : (s.showDrawn after).mem = s.mem := rfl
@[simp] theorem State.showDrawn_fb (after : FrameBuffer) : (s.showDrawn after).fb = after := rfl
@[simp] theorem State.showDrawn_fault (after : FrameBuffer) : (s.showDrawn after).fault = s.fault := rfl
@[simp] theorem State.showDrawn_cfg (after : FrameBuffer) : (s.showDrawn after).cfg = s.cfg := rfl
@[simp] theorem State.showDrawn_caller (after : FrameBuffer) : (s.showDrawn after).caller = s.caller := rfl
@[simp] theorem State.showDrawn_ix (after : FrameBuffer) : (s.showDrawn after).ix = s.ix := rfl
@[simp] theorem State.showDrawn_out (after : FrameBuffer) : (s.showDrawn after).out = s.out ++ (drawRequests s.ix s.fb after).map Output.setPixel := rfl

/-! ### beginWait -/

@[simp] theorem State.beginWait_v (x : Reg) : (s.beginWait x).v = s.v := rfl
@[simp] theorem State.beginWait_i (x : Reg) : (s.beginWait x).i = s.i := rfl
@[simp] theorem State.beginWait_pc (x : Reg) : (s.beginWait x).pc = s.pc := rfl
@[simp] theorem State.beginWait_sp (x : Reg) : (s.beginWait x).sp = s.sp := rfl
@[simp] theorem State.beginWait_stack (x : Reg) : (s.beginWait x).stack = s.stack := rfl
@[simp] theorem State.beginWait_dt (x : Reg) : (s.beginWait x).dt = s.dt := rfl
@[simp] theorem State.beginWait_st (x : Reg) : (s.beginWait x).st = s.st := rfl
@[simp] theorem State.beginWait_acc (x : Reg) : (s.beginWait x).acc = s.acc := rfl
@[simp] theorem State.beginWait_wait (x : Reg) : (s.beginWait x).wait = true := rfl
@[simp] theorem State.beginWait_wreg (x : Reg) : (s.beginWait x).wreg = x := rfl
@[simp] theorem State.beginWait_mem (x : Reg) : (s.beginWait x).mem = s.mem := rfl
@[simp] theorem State.beginWait_fb (x : Reg) : (s.beginWait x).fb = s.fb := rfl
@[simp] theorem State.beginWait_fault (x : Reg) : (s.beginWait x).fault = s.fault := rfl
@[simp] theorem State.beginWait_cfg (x : Reg) : (s.beginWait x).cfg = s.cfg := rfl
@[simp] theorem State.beginWait_caller (x : Reg) : (s.beginWait x).caller = s.caller := rfl
@[simp] theorem State.beginWait_ix (x : Reg) : (s.beginWait x).ix = s.ix := rfl
@[simp] theorem State.beginWait_out (x : Reg) : (s.beginWait x).out = s.out := rfl

/-! ### quiet -/

@[simp] theorem State.quiet_v : (s.quiet).v = s.v := rfl
@[simp] theorem State.quiet_i : (s.quiet).i = s.i := rfl
@[simp] theorem State.quiet_pc : (s.quiet).pc = s.pc := rfl
@[simp] theorem State.quiet_sp : (s.quiet).sp = s.sp := rfl
@[simp] theorem State.quiet_stack : (s.quiet).stack = s.stack := rfl
@[simp] theorem State.quiet_dt : (s.quiet).dt = s.dt := rfl
@[simp] theorem State.quiet_st : (s.quiet).st = s.st := rfl
@[simp] theorem State.quiet_acc : (s.quiet).acc = s.acc := rfl
@[simp] theorem State.quiet_wait : (s.quiet).wait = s.wait := rfl
@[simp] theorem State.quiet_wreg : (s.quiet).wreg = s.wreg := rfl
@[simp] theorem State.quiet_mem : (s.quiet).mem = s.mem := rfl
@[simp] theorem State.quiet_fb : (s.quiet).fb = s.fb := rfl
@[simp] theorem State.quiet_fault : (s.quiet).fault = s.fault := rfl
@[simp] theorem State.quiet_cfg : (s.quiet).cfg = s.cfg := rfl
@[simp] theorem State.quiet_caller : (s.quiet).caller = s.caller := rfl
@[simp] theorem State.quiet_ix : (s.quiet).ix = s.ix := rfl
@[simp] theorem State.quiet_out : (s.quiet).out = [] := rfl

/-! ### advanced -/

@[simp] theorem State.advanced_v : (s.advanced).v = s.v := rfl
@[simp] theorem State.advanced_i : (s.advanced).i = s.i := rfl
@[simp] theorem State.advanced_pc : (s.advanced).pc = s.pc + 2#16 := rfl
@[simp] theorem State.advanced_sp : (s.advanced).sp = s.sp := rfl
@[simp] theorem State.advanced_stack : (s.advanced).stack = s.stack := rfl
@[simp] theorem State.advanced_dt : (s.advanced).dt = s.dt := rfl
@[simp] theorem State.advanced_st : (s.advanced).st = s.st := rfl
@[simp] theorem State.advanced_acc : (s.advanced).acc = s.acc := rfl
@[simp] theorem State.advanced_wait : (s.advanced).wait = s.wait := rfl
@[simp] theorem State.advanced_wreg : (s.advanced).wreg = s.wreg := rfl
@[simp] theorem State.advanced_mem : (s.advanced).mem = s.mem := rfl
@[simp] theorem State.advanced_fb : (s.advanced).fb = s.fb := rfl
@[simp] theorem State.advanced_fault : (s.advanced).fault = s.fault := rfl
@[simp] theorem State.advanced_cfg : (s.advanced).cfg = s.cfg := rfl
@[simp] theorem State.advanced_caller : (s.advanced).caller = s.caller := rfl
@[simp] theorem State.advanced_ix : (s.advanced).ix = s.ix := rfl
@[simp] theorem State.advanced_out : (s.advanced).out = [] := rfl

/-! ### tick -/

@[simp] theorem State.tick_v (e : Nat) : (s.tick e).v = s.v := rfl
@[simp] theorem State.tick_i (e : Nat) : (s.tick e).i = s.i := rfl
@[simp] theorem State.tick_pc (e : Nat) : (s.tick e).pc = s.pc := rfl
@[simp] theorem State.tick_sp (e : Nat) : (s.tick e).sp = s.sp := rfl
@[simp] theorem State.tick_stack (e : Nat) : (s.tick e).stack = s.stack := rfl
@[simp] theorem State.tick_dt (e : Nat) : (s.tick e).dt = countDown s.dt ((s.acc + e) / Config.unitsPerTick) := rfl
@[simp] theorem State.tick_st (e : Nat) : (s.tick e).st = countDown s.st ((s.acc + e) / Config.unitsPerTick) := rfl
@[simp] theorem State.tick_acc (e : Nat) : (s.tick e).acc = (s.acc + e) % Config.unitsPerTick := rfl
@[simp] theorem State.tick_wait (e : Nat) : (s.tick e).wait = s.wait := rfl
@[simp] theorem State.tick_wreg (e : Nat) : (s.tick e).wreg = s.wreg := rfl
@[simp] theorem State.tick_mem (e : Nat) : (s.tick e).mem = s.mem := rfl
@[simp] theorem State.tick_fb (e : Nat) : (s.tick e).fb = s.fb := rfl
@[simp] theorem State.tick_fault (e : Nat) : (s.tick e).fault = s.fault := rfl
@[simp] theorem State.tick_cfg (e : Nat) : (s.tick e).cfg = s.cfg := rfl
@[simp] theorem State.tick_caller (e : Nat) : (s.tick e).caller = s.caller := rfl
@[simp] theorem State.tick_ix (e : Nat) : (s.tick e).ix = s.ix := rfl
@[simp] theorem State.tick_out (e : Nat) : (s.tick e).out = s.out := rfl

/-! ### resetBlock -/

@[simp] theorem State.resetBlock_v : (s.resetBlock).v = State.reset.v := rfl
@[simp] theorem State.resetBlock_i : (s.resetBlock).i = State.reset.i := rfl
@[simp] theorem State.resetBlock_pc : (s.resetBlock).pc = State.reset.pc := rfl
@[simp] theorem State.resetBlock_sp : (s.resetBlock).sp = State.reset.sp := rfl
@[simp] theorem State.resetBlock_stack : (s.resetBlock).stack = State.reset.stack := rfl
@[simp] theorem State.resetBlock_dt : (s.resetBlock).dt = State.reset.dt := rfl
@[simp] theorem State.resetBlock_st : (s.resetBlock).st = State.reset.st := rfl
@[simp] theorem State.resetBlock_acc : (s.resetBlock).acc = State.reset.acc := rfl
@[simp] theorem State.resetBlock_wait : (s.resetBlock).wait = State.reset.wait := rfl
@[simp] theorem State.resetBlock_wreg : (s.resetBlock).wreg = State.reset.wreg := rfl
@[simp] theorem State.resetBlock_mem : (s.resetBlock).mem = State.reset.mem := rfl
@[simp] theorem State.resetBlock_fb : (s.resetBlock).fb = State.reset.fb := rfl
@[simp] theorem State.resetBlock_fault : (s.resetBlock).fault = State.reset.fault := rfl
@[simp] theorem State.resetBlock_cfg : (s.resetBlock).cfg = s.cfg := rfl
@[simp] theorem State.resetBlock_caller : (s.resetBlock).caller = s.caller := rfl
@[simp] theorem State.resetBlock_ix : (s.resetBlock).ix = s.ix := rfl
@[simp] theorem State.resetBlock_out : (s.resetBlock).out = State.reset.out := rfl

/-! ### nextOp -/

@[simp] theorem State.nextOp_v : (s.nextOp).v = s.v := rfl
@[simp] theorem State.nextOp_i : (s.nextOp).i = s.i := rfl
@[simp] theorem State.nextOp_pc : (s.nextOp).pc = s.pc := rfl
@[simp] theorem State.nextOp_sp : (s.nextOp).sp = s.sp := rfl
@[simp] theorem State.nextOp_stack : (s.nextOp).stack = s.stack := rfl
@[simp] theorem State.nextOp_dt : (s.nextOp).dt = s.dt := rfl
@[simp] theorem State.nextOp_st : (s.nextOp).st = s.st := rfl
@[simp] theorem State.nextOp_acc : (s.nextOp).acc = s.acc := rfl
@[simp] theorem State.nextOp_wait : (s.nextOp).wait = s.wait := rfl
@[simp] theorem State.nextOp_wreg : (s.nextOp).wreg = s.wreg := rfl
@[simp] theorem State.nextOp_mem : (s.nextOp).mem = s.mem := rfl
@[simp] theorem State.nextOp_fb : (s.nextOp).fb = s.fb := rfl
@[simp] theorem State.nextOp_fault : (s.nextOp).fault = s.fault := rfl
@[simp] theorem State.nextOp_cfg : (s.nextOp).cfg = s.cfg := rfl
@[simp] theorem State.nextOp_caller : (s.nextOp).caller = s.caller.tail := rfl
@[simp] theorem State.nextOp_ix : (s.nextOp).ix = s.ix + 1 := rfl
@[simp] theorem State.nextOp_out : (s.nextOp).out = s.out := rfl

/-! ### Compositions, as the updates they are -/

theorem State.setRegFlag_eq (x : Reg) (b flag : Byte) : s.setRegFlag x b flag = (s.setReg x b).setReg Reg.vf flag := rfl
theorem State.unknown_eq (w : Word) : s.unknown w = s.advanced.emit (.unknownOpcode w s.pc) := rfl
theorem State.endStep_eq : s.endStep = (s.emit (.stepReturned s.stepResult)).nextOp := rfl
theorem State.doReset_eq : s.doReset = s.resetBlock.nextOp := rfl

end Sys2Proof.Machine
end

