-- ==== Sys2Proof/Laws/Ops.lean ====
section
/-! SUPPORT. What each shared operation does, said once: register and stack reads after updates, the bounds check, taking a fault, the
frame buffer, the key scan, the timers. -/

namespace Sys2Proof.Machine

/-! ## Registers and the stack -/

@[simp] theorem State.reg_setReg (s : State) (x y : Reg) (b : Byte) :
    (s.setReg x b).reg y = if y = x then b else s.reg y := by
  simp only [State.reg, State.setReg_v, Vector.getElem_set, BitVec.toNat_inj, eq_comm]

/-- A read of a register depends on V alone. -/
theorem State.reg_congr {s t : State} (h : t.v = s.v) (x : Reg) : t.reg x = s.reg x := by
  simp only [State.reg, h]

/-- R85: after a result and a flag, VF reads as the flag, V[x] as the result if it is not VF, every other register as before. -/
theorem State.reg_setRegFlag (s : State) (x y : Reg) (b flag : Byte) :
    (s.setRegFlag x b flag).reg y = if y = Reg.vf then flag else if y = x then b else s.reg y := by
  simp [State.setRegFlag_eq]

theorem State.slot_congr {s t : State} (h : t.stack = s.stack) (k : Nat) : t.slot k = s.slot k := by
  simp only [State.slot, h]

/-- A push writes the slot at SP and no other. -/
theorem State.slot_pushJump (s : State) (w : Word) (k : Nat) (h : s.sp.val < 16) :
    (s.pushJump w).slot k = if k = s.sp.val then s.pc else s.slot k := by
  unfold State.slot
  simp only [State.pushJump_stack]
  split
  · rw [Vector.getElem_setIfInBounds]
    simp only [eq_comm]
  · rw [if_neg (by omega)]

/-! ## Operands -/

@[simp] theorem addrWord_toNat (nnn : Addr) : (addrWord nnn).toNat = nnn.toNat := by
  have := nnn.isLt
  rw [addrWord, BitVec.toNat_setWidth, Nat.mod_eq_of_lt (by omega)]

@[simp] theorem byteWord_toNat (b : Byte) : (byteWord b).toNat = b.toNat := by
  have := b.isLt
  rw [byteWord, BitVec.toNat_setWidth, Nat.mod_eq_of_lt (by omega)]

/-- The glyph address of a byte is that of its low nibble (47_misc.md R112). -/
theorem glyphAddress_toNat (b : Byte) : (glyphAddress b).toNat = 0x050 + 5 * (b.toNat % 16) := by
  have h : (b &&& 0x0F#8).toNat = b.toNat % 16 := by
    rw [BitVec.toNat_and]; exact Nat.and_two_pow_sub_one_eq_mod b.toNat 4
  rw [glyphAddress, h, BitVec.toNat_ofNat, Config.fontBase, Nat.mod_eq_of_lt (by omega)]

/-- V[0] to V[x], register by register (47_misc.md R114). -/
theorem State.getD_regsUpTo (s : State) (x y : Reg) (h : y.toNat ≤ x.toNat) :
    (s.regsUpTo x).getD y.toNat 0#8 = s.reg y := by
  have := x.isLt
  simp [State.regsUpTo, State.reg, List.getD_eq_getElem?_getD, Nat.lt_succ_of_le h, y.isLt]

@[simp] theorem State.length_regsUpTo (s : State) (x : Reg) : (s.regsUpTo x).length = x.toNat + 1 := by
  have := x.isLt
  simp [State.regsUpTo]; omega

/-- After a bulk load (47_misc.md R115) the registers up to V[x] read the bytes at I, the others as before. -/
theorem State.reg_loadRegsAtI (s : State) (x y : Reg) :
    (s.loadRegsAtI x).reg y = if y.toNat ≤ x.toNat then s.mem.read (s.i.toNat + y.toNat) else s.reg y := by
  simp [State.reg]

/-! ## Faults -/

/-- Raising a fault does what 60_exceptions.md R118 says. -/
theorem State.raise_raisesTo (k : Fault) (s : State) : RaisesTo k s (s.raise k) := by
  refine ⟨rfl, rfl, rfl, fun f hf => ?_⟩
  cases f <;> first | rfl | exact fun _ => rfl | exact fun _ _ => rfl | simp at hf

/-- An access through I either raises the MemoryFault of its first invalid address, or has its effect. -/
theorem State.throughI_cases (n : Nat) (body : State → State) (s : State) :
    (n ≠ 0 ∧ Config.memSize < s.i.toNat + n ∧
        s.throughI n body = .next (s.raise (.memoryFault (max s.i.toNat Config.memSize)))) ∨
      ((n = 0 ∨ s.i.toNat + n ≤ Config.memSize) ∧ s.throughI n body = .next (body s)) := by
  unfold State.throughI
  cases h : firstInvalid s.i.toNat n with
  | none => exact .inr ⟨firstInvalid_eq_none.1 h, rfl⟩
  | some a =>
    obtain ⟨h1, h2, rfl⟩ := firstInvalid_eq_some.1 h
    exact .inl ⟨h1, h2, rfl⟩

/-- The fetch reads the two bytes at PC exactly when both are below 4096 (40_step.md R67). -/
theorem State.fetchWord_ok {s : State} (h : s.pc.toNat + 1 < Config.memSize) :
    s.fetchWord = .ok (wordOfBytes (s.mem.read s.pc.toNat) (s.mem.read (s.pc.toNat + 1))) := by
  unfold State.fetchWord
  rw [firstInvalid_eq_none.2 (.inr (by omega))]

/-- Where it cannot, it answers the first invalid address. -/
theorem State.fetchWord_error {s : State} (h : Config.memSize ≤ s.pc.toNat + 1) :
    s.fetchWord = .error (max s.pc.toNat Config.memSize) := by
  unfold State.fetchWord
  rw [firstInvalid_eq_some.2 ⟨by omega, by omega, rfl⟩]

/-- A fetch that succeeds had both addresses below 4096. -/
theorem State.lt_of_fetchWord_ok {s : State} {w : Word} (h : s.fetchWord = .ok w) : s.pc.toNat + 1 < Config.memSize := by
  by_contra hn
  rw [State.fetchWord_error (by omega)] at h
  cases h

/-- A fetch that fails had an address of 4096 or more, and answers one. -/
theorem State.le_of_fetchWord_error {s : State} {a : Nat} (h : s.fetchWord = .error a) :
    Config.memSize ≤ s.pc.toNat + 1 ∧ a = max s.pc.toNat Config.memSize := by
  by_cases hn : Config.memSize ≤ s.pc.toNat + 1
  · rw [State.fetchWord_error hn] at h
    cases h
    exact ⟨hn, rfl⟩
  · rw [State.fetchWord_ok (by omega)] at h
    cases h

/-! ## The frame buffer -/

@[simp] theorem FrameBuffer.pixel_setPixel (fb : FrameBuffer) (x x' : Fin 64) (y y' : Fin 32) (on : Bool) :
    (fb.setPixel x y on).pixel x' y' = if x' = x ∧ y' = y then on else fb.pixel x' y' := by
  unfold FrameBuffer.pixel FrameBuffer.setPixel
  by_cases hx : x' = x
  · subst hx
    by_cases hy : y' = y
    · subst hy; simp
    · have : ¬ y.val = y'.val := fun h => hy (Fin.ext h.symm)
      simp [this, hy]
  · have : ¬ x.val = x'.val := fun h => hx (Fin.ext h.symm)
    simp [this, hx]

@[simp] theorem FrameBuffer.pixel_blank (x : Fin 64) (y : Fin 32) : FrameBuffer.blank.pixel x y = false := by
  simp [FrameBuffer.pixel, FrameBuffer.blank]

/-- Two frame buffers with the same pixels are equal. -/
theorem FrameBuffer.ext_pixel {a b : FrameBuffer} (h : ∀ x y, a.pixel x y = b.pixel x y) : a = b := by
  ext i hi j hj
  exact h ⟨i, hi⟩ ⟨j, hj⟩

/-- Every pixel coordinate is listed. -/
theorem mem_allPixels (p : Fin 64 × Fin 32) : p ∈ allPixels := by
  simp [allPixels]

/-- A draw changes VF when DRAW_XOR_COLLISION, and nothing else beside what it showed. -/
theorem State.setCollision_cases (c : Bool) (s : State) :
    (s.cfg.drawXorCollision = true ∧ s.setCollision c = s.setReg Reg.vf (collisionFlag c)) ∨
      (s.cfg.drawXorCollision = false ∧ s.setCollision c = s) := by
  unfold State.setCollision
  cases s.cfg.drawXorCollision <;> simp

/-! ## The key scan -/

/-- The key scan finds nothing exactly when no key is held. -/
theorem firstHeld_eq_none {keys : Keys} : firstHeld keys = none ↔ ∀ k : Fin 16, keys[k] = false := by
  simp [firstHeld]

/-- The key the scan finds is held. -/
theorem held_of_firstHeld {keys : Keys} {k : Fin 16} (h : firstHeld keys = some k) : keys[k] = true :=
  List.find?_some (p := fun k : Fin 16 => keys[k]) h

/-- The wait-for-key phase either writes the key found and clears WAIT, or changes nothing. -/
theorem State.resolveWait_cases (s : State) :
    (∃ k, firstHeld s.keys = some k ∧
        s.resolveWait = { s.setReg s.wreg (BitVec.ofNat 8 k.val) with wait := false }) ∨
      (firstHeld s.keys = none ∧ s.resolveWait = s) := by
  unfold State.resolveWait
  cases h : firstHeld s.keys with
  | none => exact .inr ⟨rfl, rfl⟩
  | some k => exact .inl ⟨k, rfl, rfl⟩

/-! ## The timer unit -/

theorem Config.unitsPerTick_pos : 0 < Config.unitsPerTick := Nat.succ_pos _

/-- `k` decrements, each clamped at 0 (60_exceptions.md R127). -/
theorem countDown_toNat (t : Byte) (k : Nat) : (countDown t k).toNat = t.toNat - k := by
  have := t.isLt
  unfold countDown
  split
  · simp_all
  · rw [BitVec.toNat_ofNat, Nat.mod_eq_of_lt (by omega)]

/-! ## The outcome of a mapped step -/

/-- A mapped outcome is a next state exactly when the outcome is one. -/
theorem mapNext_eq_next {f : State → State} {o : Host.Outcome State Fault Refusal} {t : State} :
    mapNext f o = .next t ↔ ∃ u, o = .next u ∧ f u = t := by
  cases o <;> simp [mapNext]

/-- `load_program` either changes memory from 0x200 only, or nothing. -/
theorem State.loadProgram_cases (bytes : List Byte) (s : State) :
    (Config.maxRom < bytes.length ∧ s.loadProgram bytes = (s, .loadError)) ∨
      (bytes.length ≤ Config.maxRom ∧
        s.loadProgram bytes = ({ s with mem := s.mem.writeBytes Config.programBase bytes }, .ok)) := by
  unfold State.loadProgram
  split
  · exact .inl ⟨‹_›, rfl⟩
  · exact .inr ⟨by omega, rfl⟩

end Sys2Proof.Machine
end

