-- ==== Sys2Proof/Laws/Draw.lean ====
section
/-! SUPPORT. What a draw does, said once: its pixels, its collision (45_draw.md R98 to R101), and its requests (R103). -/

namespace Sys2Proof.Machine
/-- The sprite column on screen column `px`, for origin column `ox`: below 8 when the sprite covers it. -/
def spriteColumn (ox : Nat) (px : Fin 64) : Nat := (px.val + 64 - ox % 64) % 64

/-- The sprite row on screen row `py`, for origin row `oy`: below the row count when the sprite covers it. -/
def spriteRow (oy : Nat) (py : Fin 32) : Nat := (py.val + 32 - oy % 32) % 32

/-- A pixel's new value: R99 with DRAW_XOR_COLLISION, R100 without. -/
def composed (useXor bit old : Bool) : Bool := if useXor then old ^^ bit else bit

theorem spriteColumn_eq_iff (ox c : Nat) (px : Fin 64) (h : c < 8) :
    spriteColumn ox px = c ↔ (ox + c) % 64 = px.val := by
  have := px.isLt
  unfold spriteColumn; omega

theorem spriteRow_eq_iff (oy r : Nat) (py : Fin 32) (h : r < 16) :
    spriteRow oy py = r ↔ (oy + r) % 32 = py.val := by
  have := py.isLt
  unfold spriteRow; omega

/-- The pixels after the first `n` columns of one sprite row. -/
theorem blitColumns_pixel (u : Bool) (ox : Nat) (y : Fin 32) (row : Byte) (d : FrameBuffer × Bool) (n : Nat)
    (hn : n ≤ 8) (px : Fin 64) (py : Fin 32) :
    ((List.range n).foldl (fun d c => blitPixel u (Fin.ofNat 64 (ox + c)) y (row.getLsbD (7 - c)) d) d).1.pixel px py =
      if py = y ∧ spriteColumn ox px < n then composed u (row.getLsbD (7 - spriteColumn ox px)) (d.1.pixel px py)
      else d.1.pixel px py := by
  induction n with
  | zero => simp
  | succ n ih =>
    have ih := ih (by omega)
    rw [List.range_succ, List.foldl_append]
    simp only [List.foldl_cons, List.foldl_nil]
    generalize List.foldl _ d (List.range n) = e at *
    have hx : px = Fin.ofNat 64 (ox + n) ↔ spriteColumn ox px = n := by
      rw [spriteColumn_eq_iff _ _ _ (by omega), Fin.ext_iff, Fin.val_ofNat]; exact eq_comm
    have key : (blitPixel u (Fin.ofNat 64 (ox + n)) y (row.getLsbD (7 - n)) e).1.pixel px py =
        if px = Fin.ofNat 64 (ox + n) ∧ py = y then composed u (row.getLsbD (7 - n)) (e.1.pixel px py)
        else e.1.pixel px py := by
      unfold blitPixel composed
      cases u <;> simp only [FrameBuffer.pixel_setPixel, if_true, if_false, Bool.false_eq_true] 
      split
      · rename_i h; rw [h.1, h.2]
      · rfl
    rw [key, ih]
    by_cases hy : py = y
    · by_cases hc : spriteColumn ox px = n
      · rw [if_pos ⟨hx.2 hc, hy⟩, if_neg (by omega), if_pos ⟨hy, by omega⟩, hc]
      · rw [if_neg (fun h => hc (hx.1 h.1))]
        by_cases hl : spriteColumn ox px < n
        · rw [if_pos ⟨hy, hl⟩, if_pos ⟨hy, by omega⟩]
        · rw [if_neg (by omega), if_neg (by omega)]
    · simp [hy]

/-- Whether a pixel has collided after the first `n` columns of one sprite row. -/
theorem blitColumns_collided (ox : Nat) (y : Fin 32) (row : Byte) (d : FrameBuffer × Bool) (n : Nat) (hn : n ≤ 8) :
    ((List.range n).foldl (fun d c => blitPixel true (Fin.ofNat 64 (ox + c)) y (row.getLsbD (7 - c)) d) d).2 = true ↔
      d.2 = true ∨ ∃ px, spriteColumn ox px < n ∧ row.getLsbD (7 - spriteColumn ox px) = true ∧ d.1.pixel px y = true := by
  induction n with
  | zero => simp
  | succ n ih =>
    have ih := ih (by omega)
    have hp := blitColumns_pixel true ox y row d n (by omega)
    rw [List.range_succ, List.foldl_append]
    simp only [List.foldl_cons, List.foldl_nil]
    generalize List.foldl _ d (List.range n) = e at *
    have hc : spriteColumn ox (Fin.ofNat 64 (ox + n)) = n := by
      rw [spriteColumn_eq_iff _ _ _ (by omega), Fin.val_ofNat]
    have hx : ∀ px : Fin 64, spriteColumn ox px = n → px = Fin.ofNat 64 (ox + n) := by
      intro px h
      rw [spriteColumn_eq_iff _ _ _ (by omega)] at h
      rw [Fin.ext_iff, Fin.val_ofNat]; exact h.symm
    simp only [blitPixel, if_true, Bool.or_eq_true, Bool.and_eq_true, ih, hp, hc, Nat.lt_irrefl, and_false, if_false]
    constructor
    · rintro ((h | ⟨px, h1, h2⟩) | ⟨h1, h2⟩)
      · exact .inl h
      · exact .inr ⟨px, by omega, h2⟩
      · exact .inr ⟨_, by omega, by rw [hc]; exact h1, h2⟩
    · rintro (h | ⟨px, h1, h2, h3⟩)
      · exact .inl (.inl h)
      · by_cases h4 : spriteColumn ox px = n
        · rw [← hx px h4]; rw [h4] at h2; exact .inr ⟨h2, h3⟩
        · exact .inl (.inr ⟨px, by omega, h2, h3⟩)

/-- The pixels a draw leaves: each covered one composed with its bit, every other as before (R98, R101). -/
theorem blitRows_pixel (u : Bool) (ox oy : Nat) (rows : List Byte) (h : rows.length < 16)
    (d : FrameBuffer × Bool) (px : Fin 64) (py : Fin 32) :
    (blitRows u ox oy rows d).1.pixel px py =
      if spriteColumn ox px < 8 ∧ spriteRow oy py < rows.length then
        composed u ((rows.getD (spriteRow oy py) 0#8).getLsbD (7 - spriteColumn ox px)) (d.1.pixel px py)
      else d.1.pixel px py := by
  induction rows generalizing oy d with
  | nil => simp [blitRows]
  | cons row rows ih =>
    simp only [List.length_cons] at h
    unfold blitRows
    rw [ih _ (by omega)]
    unfold blitRow
    rw [blitColumns_pixel _ _ _ _ _ _ (Nat.le_refl 8)]
    have hy : py = Fin.ofNat 32 oy ↔ spriteRow oy py = 0 := by
      rw [spriteRow_eq_iff _ _ _ (by omega), Fin.ext_iff, Fin.val_ofNat]; exact eq_comm
    have hs : spriteRow oy py ≠ 0 → spriteRow oy py = spriteRow (oy + 1) py + 1 := by
      unfold spriteRow; have := py.isLt; omega
    have h0 : spriteRow oy py = 0 → spriteRow (oy + 1) py = 31 := by
      unfold spriteRow; have := py.isLt; omega
    simp only [List.length_cons]
    by_cases hr : spriteRow oy py = 0
    · rw [if_neg (by omega), hr]
      simp only [hy.2 hr, true_and]
      exact if_congr (by simp) rfl rfl
    · have := hs hr
      rw [if_neg (fun h => hr (hy.1 h.1) : ¬ (py = _ ∧ _)), this]
      exact if_congr (by omega) (by simp) rfl

/-- A draw collides exactly when a 1 bit falls on a pixel that was on (R99). -/
theorem blitRows_collided (ox oy : Nat) (rows : List Byte) (h : rows.length < 16) (d : FrameBuffer × Bool) :
    (blitRows true ox oy rows d).2 = true ↔
      d.2 = true ∨ ∃ px py, spriteColumn ox px < 8 ∧ spriteRow oy py < rows.length ∧
        (rows.getD (spriteRow oy py) 0#8).getLsbD (7 - spriteColumn ox px) = true ∧ d.1.pixel px py = true := by
  induction rows generalizing oy d with
  | nil => simp [blitRows]
  | cons row rows ih =>
    simp only [List.length_cons] at h
    unfold blitRows
    rw [ih _ (by omega)]
    unfold blitRow
    have hp := blitColumns_pixel true ox (Fin.ofNat 32 oy) row d 8 (Nat.le_refl 8)
    rw [blitColumns_collided _ _ _ _ _ (Nat.le_refl 8)]
    simp only [hp, List.length_cons]
    have hy : ∀ py, py = Fin.ofNat 32 oy ↔ spriteRow oy py = 0 := by
      intro py
      rw [spriteRow_eq_iff _ _ _ (by omega), Fin.ext_iff, Fin.val_ofNat]; exact eq_comm
    have hs : ∀ py, spriteRow oy py ≠ 0 → spriteRow oy py = spriteRow (oy + 1) py + 1 := by
      intro py
      unfold spriteRow; have := py.isLt; omega
    have h0 : ∀ py, spriteRow oy py = 0 → spriteRow (oy + 1) py = 31 := by
      intro py
      unfold spriteRow; have := py.isLt; omega
    constructor
    · rintro ((g | ⟨px, g1, g2, g3⟩) | ⟨px, py, g1, g2, g3, g4⟩)
      · exact .inl g
      · have e := (hy (Fin.ofNat 32 oy)).1 rfl
        exact .inr ⟨px, _, g1, by omega, by rw [e]; exact g2, g3⟩
      · have hr : spriteRow oy py ≠ 0 := fun e => by have := h0 py e; omega
        rw [if_neg (fun g => hr ((hy py).1 g.1))] at g4
        have e := hs py hr
        exact .inr ⟨px, py, g1, by omega, by rw [e]; exact g3, g4⟩
    · rintro (g | ⟨px, py, g1, g2, g3, g4⟩)
      · exact .inl (.inl g)
      · by_cases hr : spriteRow oy py = 0
        · rw [hr] at g3
          exact .inl (.inr ⟨px, g1, g3, by rw [← (hy py).2 hr]; exact g4⟩)
        · have e := hs py hr
          rw [e] at g3 g2
          exact .inr ⟨px, py, g1, by omega, g3, by rw [if_neg (fun g => hr ((hy py).1 g.1))]; exact g4⟩

/-! ## The requests of a draw (45_draw.md R103) -/

/-- Requests that all agree with `target` make the pixels they name equal to it, and change no other. -/
theorem pixel_sinkAfter (requests : List PixelRequest) (grid target : FrameBuffer) (x : Fin 64) (y : Fin 32)
    (h : ∀ r ∈ requests, r.on = target.pixel r.x r.y) :
    (sinkAfter requests grid).pixel x y =
      if ∃ r ∈ requests, r.x = x ∧ r.y = y then target.pixel x y else grid.pixel x y := by
  induction requests generalizing grid with
  | nil => simp [sinkAfter]
  | cons r l ih =>
    have := ih (PixelRequest.applyTo r grid) fun q hq => h q (List.mem_cons_of_mem _ hq)
    rw [show sinkAfter (r :: l) grid = sinkAfter l (PixelRequest.applyTo r grid) from rfl, this]
    by_cases h1 : ∃ q ∈ l, q.x = x ∧ q.y = y
    · obtain ⟨q, hq, e⟩ := h1
      rw [if_pos ⟨q, hq, e⟩, if_pos ⟨q, List.mem_cons_of_mem _ hq, e⟩]
    · rw [if_neg h1]
      simp only [PixelRequest.applyTo, FrameBuffer.pixel_setPixel]
      by_cases h2 : x = r.x ∧ y = r.y
      · rw [if_pos h2, if_pos ⟨r, List.mem_cons_self, h2.1.symm, h2.2.symm⟩, h r List.mem_cons_self, h2.1, h2.2]
      · rw [if_neg h2, if_neg]
        rintro ⟨q, hq, e⟩
        rcases List.mem_cons.1 hq with hq | hq
        · exact h2 ⟨by rw [← e.1, hq], by rw [← e.2, hq]⟩
        · exact h1 ⟨q, hq, e⟩

/-- The repairs bring any grid to the target. -/
theorem sinkAfter_repairs (grid target : FrameBuffer) : sinkAfter (repairs grid target) grid = target := by
  apply FrameBuffer.ext_pixel
  intro x y
  rw [pixel_sinkAfter _ _ target]
  · split
    · rfl
    · rename_i h
      by_contra hne
      refine h ⟨⟨x, y, target.pixel x y⟩, ?_, rfl, rfl⟩
      simp only [repairs, List.mem_map, List.mem_filter]
      exact ⟨(x, y), ⟨mem_allPixels _, by simpa using hne⟩, rfl⟩
  · intro r hr
    simp only [repairs, List.mem_map] at hr
    obtain ⟨p, _, rfl⟩ := hr
    rfl

/-- Whatever the free requests are, a draw's requests take the sink's grid from FB before to FB after. -/
theorem mirror_drawRequests (ix : Nat) (before after : FrameBuffer) :
    mirror ((drawRequests ix before after).map Output.setPixel) before = after := by
  have h : ∀ (l : List PixelRequest) (g : FrameBuffer), mirror (l.map Output.setPixel) g = sinkAfter l g := by
    intro l g
    simp only [mirror, sinkAfter, List.foldl_map]
    rfl
  rw [h, drawRequests, sinkAfter, List.foldl_append]
  exact sinkAfter_repairs _ _

end Sys2Proof.Machine
end

