-- ==== Sys2Proof/Laws/PerInstr.lean ====
section
/-! SUPPORT. Per instruction (30_encoding.md R59): the word of an instruction is of the instruction's row of the opcode map. -/

namespace Sys2Proof.Laws.RowMatch

/-- The encoded word, under the row's mask, is the row's match. -/
def Statement (i : Instr) : Prop := encodeWord i &&& i.maskMatch.1 = i.maskMatch.2

theorem mask_addr (f : Nibble) (nnn : Addr) : (f ++ nnn : Word) &&& 0xF000#16 = f ++ 0#12 := by
  ext i hi; interval_cases i <;> simp <;> grind

theorem mask_byte (f x : Nibble) (nn : Byte) : (f ++ x ++ nn : Word) &&& 0xF000#16 = f ++ 0#12 := by
  ext i hi; interval_cases i <;> simp <;> grind

theorem mask_byte_low (f x : Nibble) (nn : Byte) : (f ++ x ++ nn : Word) &&& 0xF0FF#16 = f ++ 0#4 ++ nn := by
  ext i hi; interval_cases i <;> simp <;> grind

theorem mask_nibble (f x y n : Nibble) : (f ++ x ++ y ++ n : Word) &&& 0xF000#16 = f ++ 0#12 := by
  ext i hi; interval_cases i <;> simp <;> grind

theorem mask_nibble_low (f x y n : Nibble) : (f ++ x ++ y ++ n : Word) &&& 0xF00F#16 = f ++ 0#8 ++ n := by
  ext i hi; interval_cases i <;> simp <;> grind

theorem cls : Statement .cls := rfl
theorem ret : Statement .ret := rfl
theorem jp (nnn : Addr) : Statement (.jp nnn) := mask_addr 0x1#4 nnn
theorem call (nnn : Addr) : Statement (.call nnn) := mask_addr 0x2#4 nnn
theorem seImm (x : Reg) (nn : Byte) : Statement (.seImm x nn) := mask_byte 0x3#4 x nn
theorem sneImm (x : Reg) (nn : Byte) : Statement (.sneImm x nn) := mask_byte 0x4#4 x nn
theorem seReg (x y : Reg) (ignored : Nibble) : Statement (.seReg x y ignored) := mask_nibble 0x5#4 x y ignored
theorem ldImm (x : Reg) (nn : Byte) : Statement (.ldImm x nn) := mask_byte 0x6#4 x nn
theorem addImm (x : Reg) (nn : Byte) : Statement (.addImm x nn) := mask_byte 0x7#4 x nn
theorem ldReg (x y : Reg) : Statement (.ldReg x y) := mask_nibble_low 0x8#4 x y 0x0#4
theorem orReg (x y : Reg) : Statement (.orReg x y) := mask_nibble_low 0x8#4 x y 0x1#4
theorem andReg (x y : Reg) : Statement (.andReg x y) := mask_nibble_low 0x8#4 x y 0x2#4
theorem xorReg (x y : Reg) : Statement (.xorReg x y) := mask_nibble_low 0x8#4 x y 0x3#4
theorem addReg (x y : Reg) : Statement (.addReg x y) := mask_nibble_low 0x8#4 x y 0x4#4
theorem subReg (x y : Reg) : Statement (.subReg x y) := mask_nibble_low 0x8#4 x y 0x5#4
theorem shrReg (x y : Reg) : Statement (.shrReg x y) := mask_nibble_low 0x8#4 x y 0x6#4
theorem subnReg (x y : Reg) : Statement (.subnReg x y) := mask_nibble_low 0x8#4 x y 0x7#4
theorem shlReg (x y : Reg) : Statement (.shlReg x y) := mask_nibble_low 0x8#4 x y 0xE#4
theorem sneReg (x y : Reg) (ignored : Nibble) : Statement (.sneReg x y ignored) := mask_nibble 0x9#4 x y ignored
theorem ldI (nnn : Addr) : Statement (.ldI nnn) := mask_addr 0xA#4 nnn
theorem jpV0 (nnn : Addr) (x : Reg) : Statement (.jpV0 nnn x) := mask_addr 0xB#4 nnn
theorem rnd (x : Reg) (nn : Byte) : Statement (.rnd x nn) := mask_byte 0xC#4 x nn
theorem drw (x y : Reg) (n : Nibble) : Statement (.drw x y n) := mask_nibble 0xD#4 x y n
theorem skp (x : Reg) : Statement (.skp x) := mask_byte_low 0xE#4 x 0x9E#8
theorem sknp (x : Reg) : Statement (.sknp x) := mask_byte_low 0xE#4 x 0xA1#8
theorem ldVxDT (x : Reg) : Statement (.ldVxDT x) := mask_byte_low 0xF#4 x 0x07#8
theorem ldVxK (x : Reg) : Statement (.ldVxK x) := mask_byte_low 0xF#4 x 0x0A#8
theorem ldDTVx (x : Reg) : Statement (.ldDTVx x) := mask_byte_low 0xF#4 x 0x15#8
theorem ldSTVx (x : Reg) : Statement (.ldSTVx x) := mask_byte_low 0xF#4 x 0x18#8
theorem addI (x : Reg) : Statement (.addI x) := mask_byte_low 0xF#4 x 0x1E#8
theorem ldF (x : Reg) : Statement (.ldF x) := mask_byte_low 0xF#4 x 0x29#8
theorem ldB (x : Reg) : Statement (.ldB x) := mask_byte_low 0xF#4 x 0x33#8
theorem storeRegs (x : Reg) : Statement (.storeRegs x) := mask_byte_low 0xF#4 x 0x55#8
theorem loadRegs (x : Reg) : Statement (.loadRegs x) := mask_byte_low 0xF#4 x 0x65#8

end Sys2Proof.Laws.RowMatch
end

