-- ==== Sys2Proof/Laws/Step.lean ====
section
/-! SUPPORT. What a step can do, said once: the end of a step, what every instruction leaves to it, the cases of `stepBody`
(40_step.md R64) and of `step` (00_scope.md R6, R8). -/

namespace Sys2Proof.Machine

/-! ## The end of a step -/

/-- A scheduled step's end (40_step.md R72). -/
theorem State.endStep_ends (s : State) : ScheduledStepEnds s.caller.tail s s.endStep := by
  refine ⟨fun h => ?_, fun k h => ?_, rfl, rfl, fun f hf => ?_⟩
  · simp [State.endStep_eq, State.stepResult, h]
  · simp [State.endStep_eq, State.stepResult, h]
  · cases f <;> first | rfl | exact fun _ => rfl | exact fun _ _ => rfl | simp at hf

/-- A free caller's step's end (log 1). -/
theorem State.endFreeStep_ends (s : State) (hc : s.caller = []) : FreeStepEnds s s.endFreeStep := by
  refine ⟨fun h => ?_, fun k h => ?_, ⟨rfl, countDown_toNat _ _, countDown_toNat _ _, rfl⟩, ?_, fun f hf => ?_⟩
  · show (s.out ++ [Output.stepReturned s.stepResult]) ++ [Output.tickReturned _] = _
    simp [State.stepResult, h]; rfl
  · show (s.out ++ [Output.stepReturned s.stepResult]) ++ [Output.tickReturned _] = _
    simp [State.stepResult, h]; rfl
  · show s.caller.tail = []
    rw [hc]; rfl
  · cases f <;> first | rfl | exact fun _ => rfl | exact fun _ _ => rfl | simp at hf

/-! ## What a body of a step leaves to its end -/

/-- An access through I keeps the schedule and the free-value index when its effect does. -/
theorem State.throughI_keeps {n : Nat} {body : State → State} {s t : State} (h : s.throughI n body = .next t)
    (hb : (body s).caller = s.caller ∧ (body s).ix = s.ix) : t.caller = s.caller ∧ t.ix = s.ix := by
  rcases s.throughI_cases n body with ⟨_, _, e⟩ | ⟨_, e⟩ <;> rw [e] at h <;> cases h
  · exact ⟨rfl, rfl⟩
  · exact hb

/-- No instruction touches the schedule or the free-value index. -/
theorem exec_keeps {i : Instr} {s t : State} (h : exec i s = .next t) : t.caller = s.caller ∧ t.ix = s.ix := by
  cases i <;> simp only [exec] at h
  case drw x y n =>
    refine State.throughI_keeps h ?_
    unfold State.drawSprite
    rcases State.setCollision_cases (s.drawn x y n.toNat).2 (s.showDrawn (s.drawn x y n.toNat).1) with ⟨_, e⟩ | ⟨_, e⟩ <;>
      rw [e] <;> exact ⟨rfl, rfl⟩
  case loadRegs x => exact State.throughI_keeps h ⟨State.loadRegsAtI_caller .., State.loadRegsAtI_ix ..⟩
  case ldB => exact State.throughI_keeps h ⟨rfl, rfl⟩
  case storeRegs => exact State.throughI_keeps h ⟨rfl, rfl⟩
  case ret => simp only [execRet] at h; split at h <;> cases h <;> exact ⟨rfl, rfl⟩
  case call => simp only [execCall] at h; split at h <;> cases h <;> exact ⟨rfl, rfl⟩
  case skp => simp only [execSkp] at h; split at h <;> cases h <;> exact ⟨rfl, rfl⟩
  case sknp => simp only [execSknp] at h; split at h <;> cases h <;> exact ⟨rfl, rfl⟩
  all_goals (cases h; exact ⟨rfl, rfl⟩)

/-! ## The cases of a step -/

/-- The body of a step, by cases: latched, resolved or idle, a fetch fault, an unknown opcode, or an instruction. -/
theorem stepBody_cases (s : State) :
    (∃ k, s.fault = some k ∧ stepBody s = .next s.quiet) ∨
    (s.fault = none ∧ s.wait = true ∧ stepBody s = .next s.quiet.resolveWait) ∨
    (s.fault = none ∧ s.wait = false ∧ Config.memSize ≤ s.pc.toNat + 1 ∧
      stepBody s = .next (s.latch (.memoryFault (max s.pc.toNat Config.memSize)))) ∨
    (∃ w, s.fault = none ∧ s.wait = false ∧ s.pc.toNat + 1 < Config.memSize ∧ s.fetchWord = .ok w ∧
      ((∃ i, decodeWord w = .ok i ∧ stepBody s = exec i s.advanced) ∨
        (∃ e, decodeWord w = .error e ∧ stepBody s = .next (s.unknown w)))) := by
  cases hf : s.fault with
  | some k => exact .inl ⟨k, rfl, by simp [stepBody, hf]⟩
  | none =>
    cases hw : s.wait with
    | true => exact .inr (.inl ⟨rfl, rfl, by simp [stepBody, hf, hw]⟩)
    | false =>
      cases hx : s.fetchWord with
      | error a =>
        obtain ⟨h, rfl⟩ := State.le_of_fetchWord_error hx
        exact .inr (.inr (.inl ⟨rfl, rfl, h, by simp [stepBody, hf, hw, hx]⟩))
      | ok w =>
        refine .inr (.inr (.inr ⟨w, rfl, rfl, State.lt_of_fetchWord_ok hx, rfl, ?_⟩))
        cases hd : decodeWord w with
        | ok i => exact .inl ⟨i, rfl, by simp [stepBody, hf, hw, hx, hd]⟩
        | error e => exact .inr ⟨e, rfl, by simp [stepBody, hf, hw, hx, hd]⟩

/-- A step that answers a next state is one of the caller's operations. -/
theorem step_cases {s t : State} (h : step s = .next t) :
    (∃ keys rand rest u, s.caller = .step keys rand :: rest ∧ stepBody s = .next u ∧ t = u.endStep) ∨
    (∃ e rest, s.caller = .tick e :: rest ∧ t = s.doTick e) ∨
    (∃ bytes rest, s.caller = .loadProgram bytes :: rest ∧ t = s.doLoad bytes) ∨
    (∃ rest, s.caller = .reset :: rest ∧ t = s.doReset) ∨
    (∃ u, s.caller = [] ∧ s.fault = none ∧ stepBody s = .next u ∧ t = u.endFreeStep) := by
  unfold step State.runNext at h
  split at h
  · obtain ⟨u, hu, rfl⟩ := mapNext_eq_next.1 h
    exact .inl ⟨_, _, _, u, ‹_›, hu, rfl⟩
  · cases h; exact .inr (.inl ⟨_, _, ‹_›, rfl⟩)
  · cases h; exact .inr (.inr (.inl ⟨_, _, ‹_›, rfl⟩))
  · cases h; exact .inr (.inr (.inr (.inl ⟨_, ‹_›, rfl⟩)))
  · split at h
    · cases h
    · obtain ⟨u, hu, rfl⟩ := mapNext_eq_next.1 h
      exact .inr (.inr (.inr (.inr ⟨u, ‹_›, ‹_›, hu, rfl⟩)))

end Sys2Proof.Machine
end

