-- ==== Sys2Proof/Tests/Slice0.lean ====
section
/-! SUPPORT. Tests of one step each, their expected results taken from the worked examples of spec/ (named in each comment: S, K, Z,
... are the vectors of 95_test_vectors.md), and a witness for every obligation that has hypotheses. -/

namespace Sys2Proof.Tests

open Sys2Proof.Machine

/-! ## Helpers -/

def noKeys : Keys := Vector.replicate 16 false

def held (ks : List Nat) : Keys := Vector.ofFn fun k => ks.contains k.val

/-- The reset state with a word at 0x200 and one scheduled step, no key held. -/
def start (hi lo : Byte) : State :=
  { State.reset with mem := Memory.writeBytes [] 0x200 [hi, lo], caller := [.step noKeys 0#8] }

/-- Whether one machine step from `s` answers a next state with `p`. -/
def after (s : State) (p : State → Bool) : Bool :=
  match step s with
  | .next t => p t
  | .fault _ => false
  | .refused _ => false

/-- Whether the step returned a fault of that kind, latched, with PC at `pc`. -/
def faulted (k : Fault) (pc : Word) (t : State) : Bool :=
  t.fault == some k && t.pc == pc && t.out == [.stepReturned (.faulted k)]

def runs (i : Instr) (s : State) : Bool :=
  match exec i s with
  | .next _ => true
  | .fault _ => false
  | .refused _ => false

/-! ## Well-formedness (the one check: JP V0, NNN has X = NNN[11:8]) -/

theorem test_wf_jpV0_refused : Instr.wellFormed (.jpV0 0x2F0#12 3#4) = false := by decide
theorem test_wf_jpV0_accepted : Instr.wellFormed (.jpV0 0x2F0#12 2#4) = true := by decide

/-! ## Decoding: one written-out word per constructor (30_encoding.md R59 and the examples of 41_flow.md to 47_misc.md) -/

theorem test_decode_cls : decodeWord 0x00E0#16 = .ok .cls := by decide
theorem test_decode_ret : decodeWord 0x00EE#16 = .ok .ret := by decide
theorem test_decode_jp : decodeWord 0x1345#16 = .ok (.jp 0x345#12) := by decide
theorem test_decode_call : decodeWord 0x2210#16 = .ok (.call 0x210#12) := by decide
theorem test_decode_seImm : decodeWord 0x3310#16 = .ok (.seImm 3#4 0x10#8) := by decide
theorem test_decode_sneImm : decodeWord 0x4311#16 = .ok (.sneImm 3#4 0x11#8) := by decide
theorem test_decode_seReg : decodeWord 0x512F#16 = .ok (.seReg 1#4 2#4 0xF#4) := by decide
theorem test_decode_ldImm : decodeWord 0x652A#16 = .ok (.ldImm 5#4 0x2A#8) := by decide
theorem test_decode_addImm : decodeWord 0x730A#16 = .ok (.addImm 3#4 0x0A#8) := by decide
theorem test_decode_ldReg : decodeWord 0x8120#16 = .ok (.ldReg 1#4 2#4) := by decide
theorem test_decode_orReg : decodeWord 0x8121#16 = .ok (.orReg 1#4 2#4) := by decide
theorem test_decode_andReg : decodeWord 0x8122#16 = .ok (.andReg 1#4 2#4) := by decide
theorem test_decode_xorReg : decodeWord 0x8123#16 = .ok (.xorReg 1#4 2#4) := by decide
theorem test_decode_addReg : decodeWord 0x8124#16 = .ok (.addReg 1#4 2#4) := by decide
theorem test_decode_subReg : decodeWord 0x8125#16 = .ok (.subReg 1#4 2#4) := by decide
theorem test_decode_shrReg : decodeWord 0x8126#16 = .ok (.shrReg 1#4 2#4) := by decide
theorem test_decode_subnReg : decodeWord 0x8127#16 = .ok (.subnReg 1#4 2#4) := by decide
theorem test_decode_shlReg : decodeWord 0x811E#16 = .ok (.shlReg 1#4 1#4) := by decide
theorem test_decode_sneReg : decodeWord 0x9125#16 = .ok (.sneReg 1#4 2#4 5#4) := by decide
theorem test_decode_ldI : decodeWord 0xA300#16 = .ok (.ldI 0x300#12) := by decide
theorem test_decode_jpV0 : decodeWord 0xB2F0#16 = .ok (.jpV0 0x2F0#12 2#4) := by decide
theorem test_decode_rnd : decodeWord 0xC40F#16 = .ok (.rnd 4#4 0x0F#8) := by decide
theorem test_decode_drw : decodeWord 0xD012#16 = .ok (.drw 0#4 1#4 2#4) := by decide
theorem test_decode_skp : decodeWord 0xE29E#16 = .ok (.skp 2#4) := by decide
theorem test_decode_sknp : decodeWord 0xE2A1#16 = .ok (.sknp 2#4) := by decide
theorem test_decode_ldVxDT : decodeWord 0xF607#16 = .ok (.ldVxDT 6#4) := by decide
theorem test_decode_ldVxK : decodeWord 0xF30A#16 = .ok (.ldVxK 3#4) := by decide
theorem test_decode_ldDTVx : decodeWord 0xF115#16 = .ok (.ldDTVx 1#4) := by decide
theorem test_decode_ldSTVx : decodeWord 0xF118#16 = .ok (.ldSTVx 1#4) := by decide
theorem test_decode_addI : decodeWord 0xF21E#16 = .ok (.addI 2#4) := by decide
theorem test_decode_ldF : decodeWord 0xF229#16 = .ok (.ldF 2#4) := by decide
theorem test_decode_ldB : decodeWord 0xFA33#16 = .ok (.ldB 0xA#4) := by decide
theorem test_decode_storeRegs : decodeWord 0xF155#16 = .ok (.storeRegs 1#4) := by decide
theorem test_decode_loadRegs : decodeWord 0xF265#16 = .ok (.loadRegs 2#4) := by decide

/-- K3, E-8: words next to instructions are unknown. -/
theorem test_decode_unknown :
    decodeWord 0x00E1#16 = .error (.unknownOpcode 0x00E1#16) ∧ decodeWord 0x8128#16 = .error (.unknownOpcode 0x8128#16) ∧
    decodeWord 0x812F#16 = .error (.unknownOpcode 0x812F#16) ∧ decodeWord 0xE2A2#16 = .error (.unknownOpcode 0xE2A2#16) ∧
    decodeWord 0xF0FF#16 = .error (.unknownOpcode 0xF0FF#16) := by decide

/-- R45: the byte at the lower address is the high byte; the rest of the bytes is handed back. -/
theorem test_decode_bytes : decode [0x6A#8, 0x2A#8, 0x99#8] = .ok (.ldImm 0xA#4 0x2A#8, [0x99#8]) := by decide
theorem test_decode_truncated : decode [0x6A#8] = .error .truncated := by decide

/-- The table's word reaches the decoder, and the next step runs it from reset. -/
theorem test_decodeTableWord : decodeTableWord 16 0x00E0 = some .cls := by decide
theorem test_withFetchWord : after (State.reset.withFetchWord 16 0x6A2A) (fun t => t.reg 0xA#4 == 0x2A#8) = true := by decide

/-! ## Families 0x0 to 0x5 and 0x9 -/

/-- Z1. -/
theorem test_cls :
    after { start 0x00 0xE0 with fb := (FrameBuffer.blank.setPixel 3 4 true).setPixel 63 31 true }
      (fun t => !t.fb.pixel 3 4 && !t.fb.pixel 63 31 && t.pc == 0x202#16 && t.out == [.clear, .stepReturned .continued]) = true := by decide
/-- Z4. -/
theorem test_ret_full :
    after { start 0x00 0xEE with sp := 16, stack := (Vector.replicate 16 0#16).set 15 0x300#16 }
      (fun t => t.sp.val == 15 && t.pc == 0x300#16 && t.slot 15 == 0x300#16) = true := by decide
/-- S10, Z5. -/
theorem test_ret_underflow : after (start 0x00 0xEE) (faulted .stackUnderflow 0x200#16) = true := by decide
/-- JP3. -/
theorem test_jp : after (start 0x1F 0xFF) (fun t => t.pc == 0x0FFF#16 && t.out == [.stepReturned .continued]) = true := by
  decide
/-- CA2, with the advanced PC pushed. -/
theorem test_call :
    after { start 0x23 0x00 with sp := 15 }
      (fun t => t.slot 15 == 0x202#16 && t.sp.val == 16 && t.pc == 0x300#16) = true := by decide
/-- CA3, S9. -/
theorem test_call_overflow :
    after { start 0x23 0x00 with sp := 16 } (fun t => faulted .stackOverflow 0x200#16 t && t.sp.val == 16) = true := by decide
/-- S-1. -/
theorem test_seImm_skips : after ((start 0x33 0x10).setReg 3#4 0x10#8) (fun t => t.pc == 0x204#16) = true := by decide
/-- S-2. -/
theorem test_seImm_goes_on : after ((start 0x33 0x11).setReg 3#4 0x10#8) (fun t => t.pc == 0x202#16) = true := by decide
/-- S-5. -/
theorem test_sneImm_skips : after ((start 0x43 0x11).setReg 3#4 0x10#8) (fun t => t.pc == 0x204#16) = true := by decide
/-- S-6. -/
theorem test_sneImm_goes_on : after ((start 0x43 0x10).setReg 3#4 0x10#8) (fun t => t.pc == 0x202#16) = true := by decide
/-- S-8. -/
theorem test_seReg_skips :
    after (((start 0x51 0x2F).setReg 1#4 7#8).setReg 2#4 7#8) (fun t => t.pc == 0x204#16) = true := by decide
/-- S-9. -/
theorem test_seReg_goes_on :
    after (((start 0x51 0x20).setReg 1#4 7#8).setReg 2#4 8#8) (fun t => t.pc == 0x202#16) = true := by decide
/-- S-11. -/
theorem test_sneReg_skips :
    after (((start 0x91 0x20).setReg 1#4 7#8).setReg 2#4 8#8) (fun t => t.pc == 0x204#16) = true := by decide
/-- S-12. -/
theorem test_sneReg_goes_on :
    after (((start 0x91 0x25).setReg 1#4 7#8).setReg 2#4 7#8) (fun t => t.pc == 0x202#16) = true := by decide

/-! ## Families 0x6 and 0x7 -/

/-- I-2. -/
theorem test_ldImm : after (start 0x6F 0xFF) (fun t => t.reg 0xF#4 == 0xFF#8 && t.pc == 0x202#16) = true := by decide
/-- I-3, S2. -/
theorem test_addImm_wraps :
    after (((start 0x7A 0x0A).setReg 0xA#4 250#8).setReg 0xF#4 0x55#8)
      (fun t => t.reg 0xA#4 == 4#8 && t.reg 0xF#4 == 0x55#8) = true := by decide
/-- I-4. -/
theorem test_addImm_vf : after ((start 0x7F 0x01).setReg 0xF#4 0xFF#8) (fun t => t.reg 0xF#4 == 0#8) = true := by decide

/-! ## Family 0x8 -/

def alu (hi lo : Byte) (v1 v2 vf : Byte) : State := (((start hi lo).setReg 1#4 v1).setReg 2#4 v2).setReg 0xF#4 vf

/-- A-2. -/
theorem test_ldReg : after (alu 0x8F 0x20 0 0x33 0) (fun t => t.reg 0xF#4 == 0x33#8) = true := by decide
/-- A-3. -/
theorem test_orReg :
    after (alu 0x81 0x21 0xF0 0x0C 1) (fun t => t.reg 1#4 == 0xFC#8 && t.reg 0xF#4 == 1#8) = true := by decide
/-- A-4. -/
theorem test_andReg :
    after (alu 0x81 0x22 0xF0 0x3C 1) (fun t => t.reg 1#4 == 0x30#8 && t.reg 0xF#4 == 1#8) = true := by decide
/-- A-5. -/
theorem test_xorReg : after (alu 0x81 0x23 0xF0 0x3C 0) (fun t => t.reg 1#4 == 0xCC#8) = true := by decide
/-- A-6. -/
theorem test_xorReg_self : after (alu 0x81 0x13 0x5A 0 0) (fun t => t.reg 1#4 == 0#8) = true := by decide
/-- A-7, S3. -/
theorem test_addReg_carry :
    after (alu 0x81 0x24 200 100 0) (fun t => t.reg 1#4 == 44#8 && t.reg 0xF#4 == 1#8) = true := by decide
/-- A-11: the destination is VF, so the sum is lost. -/
theorem test_addReg_vf : after (alu 0x8F 0x14 3 0 5) (fun t => t.reg 0xF#4 == 0#8) = true := by decide
/-- S5. -/
theorem test_subReg_borrow :
    after (alu 0x81 0x25 5 10 1) (fun t => t.reg 1#4 == 251#8 && t.reg 0xF#4 == 0#8) = true := by decide
/-- A-13. -/
theorem test_subReg_equal :
    after (alu 0x81 0x25 7 7 0) (fun t => t.reg 1#4 == 0#8 && t.reg 0xF#4 == 1#8) = true := by decide
/-- A-16, with SHIFT_USES_VY. -/
theorem test_shrReg_vy :
    after (alu 0x81 0x26 0 3 0) (fun t => t.reg 1#4 == 1#8 && t.reg 0xF#4 == 1#8 && t.reg 2#4 == 3#8) = true := by decide
/-- S7, without SHIFT_USES_VY. -/
theorem test_shrReg_vx :
    after { alu 0x81 0x26 3 8 0 with cfg := { Switches.default with shiftUsesVy := false } }
      (fun t => t.reg 1#4 == 1#8 && t.reg 0xF#4 == 1#8) = true := by decide
/-- 43_alu.md R93's example. -/
theorem test_subnReg :
    after (alu 0x81 0x27 5 10 0) (fun t => t.reg 1#4 == 5#8 && t.reg 0xF#4 == 1#8) = true := by decide
/-- 43_alu.md R93's second example. -/
theorem test_subnReg_borrow :
    after (alu 0x81 0x27 10 5 1) (fun t => t.reg 1#4 == 251#8 && t.reg 0xF#4 == 0#8) = true := by decide
/-- 43_alu.md R94's example. -/
theorem test_shlReg :
    after (alu 0x81 0x1E 0x81 0 0) (fun t => t.reg 1#4 == 2#8 && t.reg 0xF#4 == 1#8) = true := by decide

/-! ## Families 0xA, 0xB, 0xC -/

/-- 44_index_jump_random.md R95's example. -/
theorem test_ldI : after (start 0xA3 0x00) (fun t => t.i == 0x300#16 && t.pc == 0x202#16) = true := by decide
/-- R96: the largest target, 0xFFF + 0xFF = 0x10FE, is not masked. -/
theorem test_jpV0 : after ((start 0xBF 0xFF).setReg 0#4 0xFF#8) (fun t => t.pc == 0x10FE#16) = true := by decide
/-- R96 without JUMP_OFFSET_USES_V0: the register named by NNN[11:8]. -/
theorem test_jpV0_vx :
    after { (start 0xB2 0xF0).setReg 2#4 0x05#8 with cfg := { Switches.default with jumpOffsetUsesV0 := false } }
      (fun t => t.pc == 0x2F5#16) = true := by decide
/-- R97's example. -/
theorem test_rnd :
    after { start 0xC4 0x0F with caller := [.step noKeys 0xA7#8] } (fun t => t.reg 4#4 == 0x07#8) = true := by decide

/-! ## Family 0xD -/

def sprite (lo : Byte) (v0 v1 vf : Byte) (i : Word) (rows : List Byte) : State :=
  let s := (((start 0xD0 lo).setReg 0#4 v0).setReg 1#4 v1).setReg 0xF#4 vf
  { s with i := i, mem := s.mem.writeBytes i.toNat rows }

/-- R98's example: the sprite wraps at the right edge. -/
theorem test_drw_wraps :
    after (sprite 0x11 63 31 1 0x20E [0xC0])
      (fun t => t.fb.pixel 63 31 && t.fb.pixel 0 31 && !t.fb.pixel 1 31 && !t.fb.pixel 0 0 && t.reg 0xF#4 == 0#8) = true := by
  decide
/-- S11, program P3 step 5: both pixels off again, VF = 1. -/
theorem test_drw_collides :
    after { sprite 0x11 63 31 0 0x20E [0xC0] with fb := (FrameBuffer.blank.setPixel 63 31 true).setPixel 0 31 true }
      (fun t => !t.fb.pixel 63 31 && !t.fb.pixel 0 31 && t.reg 0xF#4 == 1#8) = true := by decide
/-- D-5: a second row wraps at the bottom edge. -/
theorem test_drw_rows :
    after (sprite 0x12 0 31 0 0x300 [0x80, 0x80])
      (fun t => t.fb.pixel 0 31 && t.fb.pixel 0 0 && !t.fb.pixel 0 1 && t.reg 0xF#4 == 0#8) = true := by decide
/-- D-11: the overwrite variant. -/
theorem test_drw_overwrite :
    after { sprite 0x11 0 0 0x77 0x300 [0x80] with
        cfg := { Switches.default with drawXorCollision := false }
        fb := (FrameBuffer.blank.setPixel 0 0 true).setPixel 1 0 true }
      (fun t => t.fb.pixel 0 0 && !t.fb.pixel 1 0 && t.reg 0xF#4 == 0x77#8) = true := by decide
/-- D-7. -/
theorem test_drw_no_rows :
    after (sprite 0x10 0 0 1 0xFFFF []) (fun t => t.reg 0xF#4 == 0#8 && t.fault == none && t.pc == 0x202#16) = true := by
  decide
/-- D-8. -/
theorem test_drw_faults :
    after (sprite 0x12 0 0 1 0xFFF []) (fun t => faulted (.memoryFault 0x1000) 0x200#16 t && t.reg 0xF#4 == 1#8) = true := by
  decide

/-! ## Family 0xE -/

/-- E-7. -/
theorem test_skp :
    after { (start 0xEF 0x9E).setReg 0xF#4 0x0F#8 with caller := [.step (held [15]) 0#8] } (fun t => t.pc == 0x204#16) = true := by
  decide
/-- E-5. -/
theorem test_skp_faults :
    after ((start 0xE2 0x9E).setReg 2#4 0x10#8) (faulted (.registerIndexOutOfRange 0x10#8) 0x200#16) = true := by decide
/-- E-3. -/
theorem test_sknp : after ((start 0xE2 0xA1).setReg 2#4 5#8) (fun t => t.pc == 0x204#16) = true := by decide
/-- E-4. -/
theorem test_sknp_held :
    after { (start 0xE2 0xA1).setReg 2#4 5#8 with caller := [.step (held [5]) 0#8] } (fun t => t.pc == 0x202#16) = true := by
  decide

/-! ## Family 0xF -/

/-- F-1. -/
theorem test_ldVxDT :
    after { start 0xF6 0x07 with dt := 0x3C#8 } (fun t => t.reg 6#4 == 0x3C#8 && t.dt == 0x3C#8) = true := by decide
/-- W5: a key held during the step is not taken. -/
theorem test_ldVxK :
    after { start 0xFF 0x0A with caller := [.step (held [4]) 0#8] }
      (fun t => t.wait && t.wreg == 0xF#4 && t.reg 0xF#4 == 0#8 && t.pc == 0x202#16) = true := by decide
/-- F-2. -/
theorem test_ldDTVx : after ((start 0xF1 0x15).setReg 1#4 60#8) (fun t => t.dt == 60#8 && t.st == 0#8) = true := by decide
/-- F-3. -/
theorem test_ldSTVx :
    after ((start 0xF1 0x18).setReg 1#4 2#8) (fun t => t.st == 2#8 && t.dt == 0#8 && t.beep) = true := by decide
/-- F-5. -/
theorem test_addI_wraps :
    after { (start 0xF2 0x1E).setReg 2#4 1#8 with i := 0xFFFF#16 } (fun t => t.i == 0#16 && t.reg 0xF#4 == 0#8) = true := by
  decide
/-- F-6. -/
theorem test_addI_past_memory :
    after { (start 0xF2 0x1E).setReg 2#4 1#8 with i := 0x0FFF#16 } (fun t => t.i == 0x1000#16 && t.fault == none) = true := by
  decide
/-- F-8. -/
theorem test_ldF : after ((start 0xF2 0x29).setReg 2#4 0x1A#8) (fun t => t.i == 0x082#16) = true := by decide
/-- F-12. -/
theorem test_ldB :
    after { (start 0xFA 0x33).setReg 0xA#4 255#8 with i := 0x300#16 }
      (fun t => t.mem.readBytes 0x300 3 == [2#8, 5#8, 5#8] && t.i == 0x300#16) = true := by decide
/-- F-15. -/
theorem test_ldB_faults :
    after { (start 0xFA 0x33).setReg 0xA#4 255#8 with i := 0x0FFE#16 }
      (fun t => faulted (.memoryFault 0x1000) 0x200#16 t && t.mem.readBytes 0xFFE 2 == [0#8, 0#8]) = true := by decide
/-- F-17. -/
theorem test_storeRegs :
    after { ((start 0xF1 0x55).setReg 0#4 1#8).setReg 1#4 2#8 with i := 0x400#16 }
      (fun t => t.mem.readBytes 0x400 3 == [1#8, 2#8, 0#8] && t.i == 0x400#16) = true := by decide
/-- F-20. -/
theorem test_storeRegs_faults :
    after { start 0xFF 0x55 with i := 0x0FF1#16 } (faulted (.memoryFault 0x1000) 0x200#16) = true := by decide
/-- F-21. -/
theorem test_loadRegs :
    after { (start 0xF2 0x65).setReg 3#4 9#8 with i := 0x300#16, mem := Memory.writeBytes [] 0x200 [0xF2, 0x65] |>.writeBytes 0x300 [1, 2, 3] }
      (fun t => t.reg 0#4 == 1#8 && t.reg 1#4 == 2#8 && t.reg 2#4 == 3#8 && t.reg 3#4 == 9#8 && t.i == 0x300#16) = true := by
  decide
/-- F-23. -/
theorem test_loadRegs_faults :
    after { start 0xF0 0x65 with i := 0x1000#16 } (faulted (.memoryFault 0x1000) 0x200#16) = true := by decide

/-! ## The step cycle, the timer unit, reset and load -/

/-- K1. -/
theorem test_step_unknown :
    after (start 0x01 0x23)
      (fun t => t.pc == 0x202#16 && t.out == [.unknownOpcode 0x0123#16 0x200#16, .stepReturned .continued]) = true := by decide
/-- K4. -/
theorem test_step_fetch_faults : after { start 0 0 with pc := 0x0FFF#16 } (faulted (.memoryFault 0x1000) 0x0FFF#16) = true := by
  decide
/-- K7: a fetch at the last word of memory. -/
theorem test_step_last_word :
    after { start 0 0 with pc := 0x0FFE#16, mem := Memory.writeBytes [] 0xFFE [0x6A, 0x01] }
      (fun t => t.reg 0xA#4 == 1#8 && t.pc == 0x1000#16 && t.fault == none) = true := by decide
/-- K9. -/
theorem test_step_latched :
    after { start 0x6A 0x01 with fault := some .stackUnderflow }
      (fun t => faulted .stackUnderflow 0x200#16 t && t.reg 0xA#4 == 0#8) = true := by decide
/-- W3. -/
theorem test_step_resolves_wait :
    after { start 0x6A 0x01 with wait := true, wreg := 3#4, caller := [.step (held [0xB, 7]) 0#8] }
      (fun t => t.reg 3#4 == 7#8 && !t.wait && t.pc == 0x200#16) = true := by decide
/-- W2. -/
theorem test_step_keeps_waiting :
    after { start 0x6A 0x01 with wait := true, wreg := 3#4 }
      (fun t => t.wait && t.pc == 0x200#16 && t.reg 0xA#4 == 0#8 && t.out == [.stepReturned .continued]) = true := by decide
/-- T7: no time, so nothing changes, and the beep is on. -/
theorem test_tick_zero : (State.tick 0 { State.reset with st := 3#8 }).st = 3#8 := by
  have h : (0 : Nat) / Config.unitsPerTick = 0 := Nat.zero_div _
  simp only [State.tick, State.reset, Nat.zero_add, h]
  decide
/-- T5's counting: three decrements of 2 and of 5. -/
theorem test_countDown_clamps : countDown 2#8 3 = 0#8 ∧ countDown 5#8 3 = 2#8 := by decide
/-- K10. -/
theorem test_reset :
    after { start 0x6A 0x01 with fault := some .stackUnderflow, caller := [.reset], pc := 0x345#16 }
      (fun t => t.fault == none && t.pc == 0x200#16 && t.mem.read 0x200 == 0#8 &&
        t.mem.readBytes 0x09B 6 == [0xF0, 0x80, 0xF0, 0x80, 0x80, 0x00]) = true := by decide
/-- LD4. -/
theorem test_load :
    after { State.reset with caller := [.loadProgram [0x12#8, 0x00#8]], pc := 0x300#16 }
      (fun t => t.mem.readBytes 0x200 2 == [0x12#8, 0x00#8] && t.pc == 0x300#16 && t.out == [.loadReturned .ok]) = true := by
  decide
/-- LD2, S14. -/
theorem test_load_too_long (s : State) : s.loadProgram (List.replicate 3585 0#8) = (s, .loadError) := by
  rw [State.loadProgram, if_pos (by rw [List.length_replicate]; decide)]

/-! ## Witnesses: for every obligation with hypotheses, a state and operands that meet them, each clause at a boundary value -/

theorem witness_RetPopsTheStackOrUnderflows :
    ({ State.reset with sp := 1 } : State).sp.val ≠ 0 ∧ ({ State.reset with sp := 16 } : State).sp.val ≠ 0 ∧
      State.reset.sp.val = 0 := by decide

theorem witness_CallPushesPcOrOverflows :
    State.reset.sp.val ≠ 16 ∧ ({ State.reset with sp := 15 } : State).sp.val ≠ 16 ∧
      ({ State.reset with sp := 16 } : State).sp.val = 16 := by decide

/-- For AddSetsCarryInVf, SubtractionsSetNoBorrowInVf, ShrHalvesAndSetsVf, ShlDoublesAndSetsVf. -/
theorem witness_destination_is_not_vf : 0xE#4 ≠ Reg.vf ∧ 0x0#4 ≠ Reg.vf := by decide

/-- For ShrHalvesAndSetsVf and ShlDoublesAndSetsVf: a source under each setting. -/
theorem witness_shift_source :
    let s := alu 0x81 0x26 3 8 0
    let t := { s with cfg := { Switches.default with shiftUsesVy := false } }
    8#8 = (if s.cfg.shiftUsesVy = true then s.reg 2#4 else s.reg 1#4) ∧
      3#8 = (if t.cfg.shiftUsesVy = true then t.reg 2#4 else t.reg 1#4) := by decide

/-- For RndMasksTheRandomByte and KeyTestsSkipOrFault: a scheduled step. -/
theorem witness_scheduled_step : (start 0xC4 0x0F).caller = .step noKeys 0#8 :: [] := rfl

theorem witness_KeyTestsSkipOrFault :
    ((start 0xE2 0x9E).setReg 2#4 15#8).reg 2#4 = 15#8 ∧ ((start 0xE2 0x9E).setReg 2#4 15#8 |>.reg 2#4).toNat < 16 ∧
      16 ≤ ((start 0xE2 0x9E).setReg 2#4 16#8 |>.reg 2#4).toNat := by decide

/-- For DrawXorTogglesAndReportsCollision: the last byte of memory, no byte at all, and both cases of the collision. -/
theorem witness_DrawXorTogglesAndReportsCollision :
    (sprite 0x11 0 0 0 0xFFF [0x80]).cfg.drawXorCollision = true ∧ (sprite 0x11 0 0 0 0xFFF [0x80]).i.toNat + (1#4).toNat ≤ 4096 ∧
      (sprite 0x10 0 0 0 0xFFFF []).cfg.drawXorCollision = true ∧ (sprite 0x10 0 0 0 0xFFFF []).i.toNat = 0xFFFF := by decide

/-- The sprite of test_drw_wraps has a 1 bit on (0, 31). -/
theorem witness_spriteOn : (sprite 0x11 63 31 0 0x20E [0xC0]).spriteOn 0#4 1#4 1 0 31 :=
  ⟨0, 1, by decide, by decide, by decide, by decide, by decide⟩

theorem witness_collision :
    ∃ px py, (sprite 0x11 63 31 0 0x20E [0xC0]).spriteOn 0#4 1#4 1 px py ∧
      (FrameBuffer.blank.setPixel 0 31 true).pixel px py = true :=
  ⟨0, 31, witness_spriteOn, by decide⟩

theorem witness_no_collision :
    ¬ ∃ px py, (sprite 0x11 63 31 0 0x20E [0xC0]).spriteOn 0#4 1#4 1 px py ∧
      (sprite 0x11 63 31 0 0x20E [0xC0]).fb.pixel px py = true := by
  rintro ⟨px, py, -, h⟩
  have h' : FrameBuffer.blank.pixel px py = true := h
  rw [FrameBuffer.pixel_blank] at h'
  cases h'

/-- For DrawOverwriteSetsCoveredPixels: the switch off, and a pixel that is covered but not on (the sprite's bit 6 at (1, 0)). -/
theorem witness_DrawOverwriteSetsCoveredPixels :
    let s := { sprite 0x11 0 0 0 0xFFF [0x80] with cfg := { Switches.default with drawXorCollision := false } }
    s.cfg.drawXorCollision = false ∧ s.i.toNat + (1#4).toNat ≤ 4096 ∧ s.spriteOn 0#4 1#4 1 0 0 ∧
      s.spriteCovers 0#4 1#4 1 1 0 := by
  refine ⟨rfl, by decide, ⟨0, 0, ?_⟩, ⟨0, 1, ?_⟩⟩ <;> decide

theorem witness_not_covered : ¬ (sprite 0x11 0 0 0 0xFFF [0x80]).spriteCovers 0#4 1#4 1 8 0 := by
  rintro ⟨r, c, hr, hc, h, -⟩
  have : (0 + c) % 64 = 8 := h
  omega

theorem witness_covered_not_on : ¬ (sprite 0x11 0 0 0 0xFFF [0x80]).spriteOn 0#4 1#4 1 1 0 := by
  rintro ⟨r, c, hr, hc, h, -, hb⟩
  have hc1 : (0 + c) % 64 = 1 := h
  obtain rfl : c = 1 := by omega
  obtain rfl : r = 0 := by omega
  revert hb
  decide

theorem witness_DrawOfNoRowsChangesNoPixel :
    State.reset.cfg.drawXorCollision = true ∧
      ({ State.reset with cfg := { Switches.default with drawXorCollision := false } } : State).cfg.drawXorCollision = false := by
  decide

/-- The sprite of program P3: on a blank display its 1 bits are off before the first draw. -/
theorem witness_DrawingTwiceRestoresTheDisplay :
    (sprite 0x11 63 31 0 0x20E [0xC0]).cfg.drawXorCollision = true ∧ 0#4 ≠ Reg.vf ∧ 1#4 ≠ Reg.vf ∧
      (sprite 0x11 63 31 0 0x20E [0xC0]).i.toNat + (1#4).toNat ≤ 4096 ∧
      ∃ px py, (sprite 0x11 63 31 0 0x20E [0xC0]).spriteOn 0#4 1#4 1 px py ∧
        (sprite 0x11 63 31 0 0x20E [0xC0]).fb.pixel px py = false :=
  ⟨rfl, by decide, by decide, by decide, 0, 31, witness_spriteOn, FrameBuffer.pixel_blank 0 31⟩

/-- Its other clause: a sprite of no rows has no 1 bit. -/
theorem witness_sprite_of_no_rows :
    ¬ ∃ px py, State.reset.spriteOn 0#4 1#4 0 px py ∧ State.reset.fb.pixel px py = false := by
  rintro ⟨_, _, ⟨_, _, h, _⟩, _⟩
  omega

theorem witness_SinkMirrorsFrameBuffer :
    State.reset.out = [] ∧ (∃ t, exec .cls State.reset = .next t) ∧ ∃ t, exec (.drw 0#4 1#4 1#4) State.reset = .next t :=
  ⟨rfl, ⟨_, rfl⟩, ⟨_, rfl⟩⟩

theorem witness_LdBStoresDecimalDigits : ({ State.reset with i := 0xFFD#16 } : State).i.toNat + 2 < 4096 := by decide

/-- For BulkStoreWritesV0ToVx and BulkLoadReadsV0ToVx: the last byte of memory, and a register above V[x]. -/
theorem witness_bulk :
    ({ State.reset with i := 0xFF0#16 } : State).i.toNat + (0xF#4).toNat < 4096 ∧
      ({ State.reset with i := 0xFFF#16 } : State).i.toNat + (0x0#4).toNat < 4096 ∧ (0x0#4).toNat ≤ (0x0#4).toNat ∧
      (0x0#4).toNat < (0x1#4).toNat := by decide

theorem witness_InvalidAddressThroughIFaults :
    let s : State := { State.reset with i := 0xFFE#16 }
    (3#4 ≠ 0#4 ∧ 4096 < s.i.toNat + (3#4).toNat) ∧ 4096 ≤ s.i.toNat + 2 ∧ 4096 ≤ s.i.toNat + (2#4).toNat := by decide

theorem witness_ResetOperationRestoresResetState :
    ({ State.reset with fault := some .stackOverflow, caller := [.reset] } : State).caller = .reset :: [] := rfl

theorem witness_LoadProgramCopiesOrRefuses :
    let fits := List.replicate 3584 0x6A#8
    let tooLong := List.replicate 3585 0x6A#8
    ({ State.reset with caller := [.loadProgram fits] } : State).caller = .loadProgram fits :: [] ∧ fits.length ≤ 3584 ∧
      ({ State.reset with caller := [.loadProgram tooLong] } : State).caller = .loadProgram tooLong :: [] ∧
      3584 < tooLong.length := by
  intro fits tooLong
  refine ⟨rfl, ?_, rfl, ?_⟩
  · rw [List.length_replicate]
  · rw [List.length_replicate]; decide

/-- For StepRunsTheDecodedInstruction: the last word of memory, with a step scheduled and with a free caller. -/
theorem witness_StepRunsTheDecodedInstruction :
    let s : State := { start 0 0 with pc := 0x0FFE#16, mem := Memory.writeBytes [] 0xFFE [0x6A, 0x01] }
    s.fault = none ∧ s.wait = false ∧ s.pc.toNat + 1 < 4096 ∧
      decodeWord (s.mem.read s.pc.toNat ++ s.mem.read (s.pc.toNat + 1)) = .ok (.ldImm 0xA#4 1#8) ∧
      s.caller = .step noKeys 0#8 :: [] ∧ ({ s with caller := [] } : State).caller = [] := by decide

/-- For StepIsItsBodyThenItsEnd: a step scheduled, and a free caller with no fault. -/
theorem witness_StepIsItsBodyThenItsEnd :
    (start 0 0).caller = .step noKeys 0#8 :: [] ∧ State.reset.caller = [] ∧ State.reset.fault = none := by decide

/-- PC at the first address that admits no fetch, with a step scheduled and with a free caller. -/
theorem witness_FetchOutsideMemoryFaults :
    let s : State := { start 0 0 with pc := 0x0FFF#16 }
    let t : State := { s with caller := [] }
    (s.caller = .step noKeys 0#8 :: [] ∧ s.fault = none ∧ s.wait = false ∧ 4096 ≤ s.pc.toNat + 1 ∧
      Fault.memoryFault 0x1000 = .memoryFault (max s.pc.toNat 4096)) ∧
      t.caller = [] ∧ t.fault = none ∧ t.wait = false ∧ 4096 ≤ t.pc.toNat + 1 ∧
      Fault.memoryFault 0x1000 = .memoryFault (max t.pc.toNat 4096) := by decide

/-- K2: the word 0x0000, with a step scheduled and with a free caller. -/
theorem witness_UnknownOpcodeIsANoOpWithDiagnostic :
    let s := start 0 0
    let t := State.reset
    (s.caller = .step noKeys 0#8 :: [] ∧ s.fault = none ∧ s.wait = false ∧ s.pc.toNat + 1 < 4096 ∧
      0x0000#16 = s.mem.read s.pc.toNat ++ s.mem.read (s.pc.toNat + 1)) ∧
      t.caller = [] ∧ t.fault = none ∧ t.wait = false ∧ t.pc.toNat + 1 < 4096 ∧
      0x0000#16 = t.mem.read t.pc.toNat ++ t.mem.read (t.pc.toNat + 1) := by decide

/-- One word of each part of the list of R60. -/
theorem witness_UnknownWord :
    UnknownWord 0x0000#16 ∧ UnknownWord 0x8128#16 ∧ UnknownWord 0xE2A2#16 ∧ UnknownWord 0xF0FF#16 :=
  ⟨.inl (by decide), .inr (.inl (by decide)), .inr (.inr (.inl (by decide))), .inr (.inr (.inr (by decide)))⟩

/-- For WaitingStepTakesFirstHeldKey: the smallest held key at 0 and at 15, none held, and a free caller. -/
theorem witness_WaitingStepTakesFirstHeldKey :
    let s : State := { start 0 0 with wait := true, wreg := 3#4 }
    s.caller = .step noKeys 0#8 :: [] ∧ s.fault = none ∧ s.wait = true ∧ (∀ j : Fin 16, noKeys[j] = false) ∧
      ((held [15])[(15 : Fin 16)] = true ∧ ∀ j : Fin 16, j < 15 → (held [15])[j] = false) ∧
      ((held [0, 9])[(0 : Fin 16)] = true ∧ ∀ j : Fin 16, j < 0 → (held [0, 9])[j] = false) ∧
      ({ s with caller := [] } : State).caller = [] := by decide

theorem witness_FaultStaysLatched :
    ({ start 0 0 with fault := some .stackOverflow } : State).fault = some .stackOverflow ∧
      ({ start 0 0 with fault := some .stackOverflow } : State).caller = .step noKeys 0#8 :: [] ∧
      ({ State.reset with fault := some .stackOverflow } : State).caller = [] := by decide

/-- A return with an empty stack, and a fetch past memory; then the return with a free caller. -/
theorem witness_FaultsArePrecise :
    (∃ t, step (start 0x00 0xEE) = .next t ∧ t.fault ≠ none) ∧
      (∃ t, step { start 0 0 with pc := 0x1000#16 } = .next t ∧ t.fault ≠ none) ∧
      ∃ t, step { start 0x00 0xEE with caller := [] } = .next t ∧ t.fault ≠ none :=
  ⟨⟨_, rfl, by decide⟩, ⟨_, rfl, by decide⟩, ⟨_, rfl, by decide⟩⟩

theorem witness_TickCountsDownBothTimers :
    ({ State.reset with caller := [.tick 7], dt := 1#8 } : State).caller = .tick 7 :: [] := rfl

theorem witness_OneSixtiethDecrementsByOne :
    let s : State := { State.reset with caller := [.tick Config.unitsPerTick], dt := 1#8 }
    s.caller = .tick Config.unitsPerTick :: [] ∧ s.acc = 0 ∧ s.dt ≠ 0#8 ∧ s.st = 0#8 :=
  ⟨rfl, rfl, by decide, rfl⟩

theorem witness_TicksAddUp : State.reset.acc < Config.unitsPerTick := Config.unitsPerTick_pos

theorem witness_InstructionsDoNotRunTheTimers :
    (∃ t, exec (.ldSTVx 3#4) State.reset = .next t) ∧ (∀ x, Instr.ldSTVx 3#4 ≠ .ldDTVx x) ∧
      (∀ x, Instr.ldDTVx 3#4 ≠ .ldSTVx x) :=
  ⟨⟨_, rfl⟩, fun _ => nofun, fun _ => nofun⟩

/-- For EveryStepKeepsTheInvariant: a state other than reset, with a step to take. -/
theorem witness_EveryStepKeepsTheInvariant :
    State.Inv { start 0x00 0xE0 with st := 5#8 } ∧ ∃ t, step { start 0x00 0xE0 with st := 5#8 } = .next t := by
  refine ⟨⟨by decide, fun k => ?_, Config.unitsPerTick_pos, by decide, nofun⟩, _, rfl⟩
  simp [State.slot, start, State.reset]

/-- Its clause about a faulted state. -/
theorem witness_Inv_faulted : State.Inv { State.reset with fault := some .stackUnderflow } := by
  refine ⟨by decide, fun k => ?_, Config.unitsPerTick_pos, rfl, ?_⟩
  · simp [State.slot, State.reset]
  · rintro _ ⟨⟩
    exact ⟨rfl, rfl⟩

theorem witness_SwitchesNeverChange : ∃ t, step (start 0x00 0xE0) = .next t := ⟨_, rfl⟩

theorem witness_OnlyListedRegistersAreWritten :
    ∃ t, exec (.addReg 1#4 2#4) State.reset = .next t ∧ 3#4 ∉ regsWritten State.reset.cfg (.addReg 1#4 2#4) :=
  ⟨_, rfl, by decide⟩

theorem witness_OnlyStoresWriteMemory :
    ∃ t, writesMemory (.loadRegs 1#4) = false ∧ exec (.loadRegs 1#4) State.reset = .next t := ⟨_, rfl, rfl⟩

theorem witness_OtherInstructionsIgnoreInputs :
    readsInputs (.ldVxK 1#4) = false ∧ readsInputs (.drw 0#4 1#4 1#4) = false := by decide

/-- For CallThenReturnRestoresPc: the state after the call is itself such a later state. -/
theorem witness_CallThenReturnRestoresPc :
    State.reset.sp.val ≠ 16 ∧ ∃ t, exec (.call 0x210#12) State.reset = .next t ∧ t.sp.val = 1 :=
  ⟨by decide, _, rfl, by decide⟩

theorem witness_StoredBytesAreFetched :
    (1#4).toNat = (0#4).toNat + 1 ∧ (1#4).toNat ≤ (1#4).toNat ∧
      ({ State.reset with i := 0xFFE#16 } : State).i.toNat + (1#4).toNat < 4096 ∧
      ({ State.reset with i := 0xFFE#16, pc := 0xFFE#16 } : State).pc.toNat = 0xFFE + (0#4).toNat := by decide

/-- Two orders of writing, one of them through a value that is taken back. -/
theorem witness_CanonicalMemoriesReadingAlikeAreEqual :
    let m₁ := Memory.write (Memory.write [] 0x300 1#8) 0x200 2#8
    let m₂ := Memory.write (Memory.write (Memory.write (Memory.write [] 0x200 2#8) 0x400 7#8) 0x300 1#8) 0x400 0#8
    Memory.wf m₁ = true ∧ Memory.wf m₂ = true ∧ ∀ a, Memory.read m₁ a = Memory.read m₂ a :=
  ⟨by decide, by decide, fun _ => rfl⟩

theorem witness_DecodeOfEncodeIsTheInstruction :
    Instr.wellFormed (.jpV0 0xFFF#12 0xF#4) = true ∧ Instr.wellFormed (.seReg 0xF#4 0xF#4 0xF#4) = true := by decide

theorem witness_EncodeOfDecodeIsTheWord : decodeWord 0x512F#16 = .ok (.seReg 1#4 2#4 0xF#4) := by decide

theorem witness_DecodingFollowsTheOpcodeMap :
    0xF333#16 &&& (Instr.maskMatch (.ldB 0#4)).1 = (Instr.maskMatch (.ldB 0#4)).2 ∧
      decodeWord 0xF333#16 = .ok (.ldB 3#4) := by decide

/-- For EveryInstructionAnswersANextState: an instruction that has its effect and one that takes its fault. -/
theorem witness_EveryInstructionAnswersANextState :
    runs (.call 0x210#12) State.reset = true ∧ runs .ret State.reset = true := by decide

end Sys2Proof.Tests
end

namespace Sys2Proof.Machine

/-! ## The switches are fixed for a whole run (00_scope.md R10)

One lemma per operation that the field lemmas of the state do not already cover, then the instructions, the body of a step and the
machine step. -/

/-- Writing VF on a collision leaves the switch that decides it. -/
@[simp] theorem State.setCollision_cfg (c : Bool) (s : State) : (s.setCollision c).cfg = s.cfg := by
  rcases s.setCollision_cases c with ⟨_, e⟩ | ⟨_, e⟩ <;> rw [e]
  rfl

@[simp] theorem State.drawSprite_cfg (x y : Reg) (n : Nat) (s : State) : (s.drawSprite x y n).cfg = s.cfg := by
  simp [State.drawSprite]

@[simp] theorem State.resolveWait_cfg (s : State) : s.resolveWait.cfg = s.cfg := by
  rcases s.resolveWait_cases with ⟨_, _, e⟩ | ⟨_, e⟩ <;> rw [e]
  rfl

@[simp] theorem State.unknown_cfg (w : Word) (s : State) : (s.unknown w).cfg = s.cfg := rfl

@[simp] theorem State.endStep_cfg (s : State) : s.endStep.cfg = s.cfg := rfl

@[simp] theorem State.endFreeStep_cfg (s : State) : s.endFreeStep.cfg = s.cfg := rfl

@[simp] theorem State.doTick_cfg (elapsed : Nat) (s : State) : (s.doTick elapsed).cfg = s.cfg := rfl

@[simp] theorem State.doLoad_cfg (bytes : List Byte) (s : State) : (s.doLoad bytes).cfg = s.cfg := by
  rcases s.quiet.loadProgram_cases bytes with ⟨_, e⟩ | ⟨_, e⟩ <;> simp [State.doLoad, e]

@[simp] theorem State.doReset_cfg (s : State) : s.doReset.cfg = s.cfg := rfl

/-- An instruction that raises a fault or has its effect keeps the switches when its effect does. -/
theorem cfg_of_raise_or_next {c : Prop} [Decidable c] {k : Fault} {s u t : State}
    (h : (if c then .next (s.raise k) else .next u : Host.Outcome State Fault Refusal) = .next t)
    (hu : u.cfg = s.cfg) : t.cfg = s.cfg := by
  split at h <;> cases h
  · exact s.raise_cfg k
  · exact hu

/-- An access through I keeps the switches when its effect does. -/
theorem State.throughI_keeps_cfg {n : Nat} {body : State → State} {s t : State} (h : s.throughI n body = .next t)
    (hb : (body s).cfg = s.cfg) : t.cfg = s.cfg := by
  rcases s.throughI_cases n body with ⟨_, _, e⟩ | ⟨_, e⟩ <;> rw [e] at h <;> cases h
  · exact s.raise_cfg _
  · exact hb

/-- No instruction changes the switches. -/
theorem exec_keeps_cfg {i : Instr} {s t : State} (h : exec i s = .next t) : t.cfg = s.cfg := by
  cases i
  case ret => exact cfg_of_raise_or_next h s.popJump_cfg
  case call nnn => exact cfg_of_raise_or_next h (s.pushJump_cfg _)
  case skp x => exact cfg_of_raise_or_next h (s.skipIf_cfg _)
  case sknp x => exact cfg_of_raise_or_next h (s.skipIf_cfg _)
  case drw x y n => exact State.throughI_keeps_cfg h (s.drawSprite_cfg x y _)
  case ldB x => exact State.throughI_keeps_cfg h (s.storeAtI_cfg _)
  case storeRegs x => exact State.throughI_keeps_cfg h (s.storeAtI_cfg _)
  case loadRegs x => exact State.throughI_keeps_cfg h (s.loadRegsAtI_cfg x)
  -- Every other instruction answers one update of the registers, PC, I, a timer, WAIT or FB.
  all_goals (cases h; rfl)

/-- No body of a step changes the switches: latched, waiting, at a fetch fault, at an unknown opcode or at an instruction. -/
theorem stepBody_keeps_cfg {s t : State} (h : stepBody s = .next t) : t.cfg = s.cfg := by
  rcases stepBody_cases s with ⟨_, _, e⟩ | ⟨_, _, e⟩ | ⟨_, _, _, e⟩ | ⟨w, _, _, _, _, ⟨i, _, e⟩ | ⟨_, _, e⟩⟩ <;> rw [e] at h
  · cases h; exact s.quiet_cfg
  · cases h; simp
  · cases h; exact s.latch_cfg _
  · exact (exec_keeps_cfg h).trans s.advanced_cfg
  · cases h; exact s.unknown_cfg w

/-- Settles O48: each of the caller's operations, and the free caller's step, keeps the switches. -/
theorem switchesNeverChange : Obligations.SwitchesNeverChange := by
  intro s t h
  rcases step_cases h with ⟨_, _, _, u, _, hu, rfl⟩ | ⟨elapsed, _, _, rfl⟩ | ⟨bytes, _, _, rfl⟩ | ⟨_, _, rfl⟩ |
    ⟨u, _, _, hu, rfl⟩
  · exact u.endStep_cfg.trans (stepBody_keeps_cfg hu)
  · exact s.doTick_cfg elapsed
  · exact s.doLoad_cfg bytes
  · exact s.doReset_cfg
  · exact u.endFreeStep_cfg.trans (stepBody_keeps_cfg hu)

end Sys2Proof.Machine

namespace Sys2Proof.Machine

/-! ## The reset state (10_state.md R34) -/

@[simp] theorem State.reset_reg (x : Reg) : State.reset.reg x = 0#8 :=
  Vector.getElem_replicate ..

@[simp] theorem State.reset_slot (k : Nat) : State.reset.slot k = 0#16 := by
  simp [State.slot, State.reset]

/-- Memory after reset lists no cell, so every address reads as its reset byte. -/
theorem State.reset_mem_read (a : Nat) : State.reset.mem.read a = resetByte a := rfl

/-- Below and above the font every address holds 0 after reset. -/
theorem resetByte_outside_font {a : Nat} (h : a < 0x050 ∨ 0x0A0 ≤ a) : resetByte a = 0#8 := by
  unfold resetByte
  rcases h with h | h
  · exact if_pos h
  · rw [if_neg (by rw [Config.fontBase]; omega), List.getD_eq_default]
    have hlen : fontTable.length = 80 := rfl
    rw [hlen, Config.fontBase]
    omega

/-- Settles O32: the registers, slots and pixels by their reset reads, memory outside the font by its reset byte, and each glyph
by evaluation. -/
theorem resetStateHoldsResetValues : Obligations.ResetStateHoldsResetValues := by
  refine ⟨State.reset_reg, rfl, rfl, rfl, State.reset_slot, rfl, rfl, rfl, rfl, rfl, FrameBuffer.pixel_blank, rfl,
    fun a ha => (State.reset_mem_read a).trans (resetByte_outside_font ha), ?glyphs⟩
  case glyphs => decide

/-- Settles O46: every stack slot is 0, ACC is below the positive UNITS_PER_TICK, and no fault is latched. -/
theorem invariantHoldsAtReset : Obligations.InvariantHoldsAtReset :=
  ⟨by decide, by simp, Config.unitsPerTick_pos, Memory.wf_reset, nofun⟩

/-! ## The invariant under the updates of a step (10_state.md R35)

An update that leaves PC, the stack, SP, ACC, memory, FAULT and WAIT alone keeps the invariant by definition. The lemmas here say
what each other update needs. -/

/-- A state with no latched fault meets the invariant when its PC, slots, ACC and memory do. -/
theorem State.Inv.of_no_fault {s : State} (hf : s.fault = none) (hpc : s.pc.toNat ≤ 0x10FE)
    (hslot : ∀ k, (s.slot k).toNat ≤ 0x1000) (hacc : s.acc < Config.unitsPerTick) (hmem : s.mem.wf = true) : s.Inv :=
  ⟨hpc, hslot, hacc, hmem, fun _ hk => nomatch hf.symm.trans hk⟩

theorem State.Inv.setPc {s : State} (h : s.Inv) {w : Word} (hw : w.toNat ≤ 0x10FE) : (s.setPc w).Inv :=
  ⟨hw, h.2⟩

theorem State.Inv.tick {s : State} (h : s.Inv) (elapsed : Nat) : (s.tick elapsed).Inv := by
  obtain ⟨hpc, hslot, -, hmem, hfault⟩ := h
  exact ⟨hpc, hslot, Nat.mod_lt _ Config.unitsPerTick_pos, hmem, hfault⟩

/-- Writes within memory keep its canonical form. -/
theorem State.Inv.writeBytes {s : State} (h : s.Inv) {base : Nat} {bs : List Byte}
    (hb : base + bs.length ≤ Config.memSize) : ({ s with mem := s.mem.writeBytes base bs } : State).Inv := by
  obtain ⟨hpc, hslot, hacc, hmem, hfault⟩ := h
  exact ⟨hpc, hslot, hacc, Memory.wf_writeBytes hb hmem, hfault⟩

theorem State.Inv.endStep {s : State} (h : s.Inv) : s.endStep.Inv := h

theorem State.Inv.endFreeStep {s : State} (h : s.Inv) : s.endFreeStep.Inv := h.tick (Config.freeElapsed s.ix)

/-- A legal fault latched in a state that is not waiting. -/
theorem State.Inv.latch {s : State} (h : s.Inv) (hw : s.wait = false) {k : Fault} (hk : Fault.Legal s k) :
    (s.latch k).Inv := by
  obtain ⟨hpc, hslot, hacc, hmem, -⟩ := h
  refine ⟨hpc, hslot, hacc, hmem, ?_⟩
  rintro _ ⟨⟩
  exact ⟨hk, hw⟩

/-- Leaving a wait keeps the invariant, and so does going on waiting. -/
theorem State.Inv.resolveWait {s : State} (h : s.Inv) : s.resolveWait.Inv := by
  rcases s.resolveWait_cases with ⟨_, _, e⟩ | ⟨_, e⟩ <;> rw [e]
  · obtain ⟨hpc, hslot, hacc, hmem, hfault⟩ := h
    exact ⟨hpc, hslot, hacc, hmem, fun k hk => ⟨(hfault k hk).1, rfl⟩⟩
  · exact h

/-- MAX_ROM bytes from PROGRAM_BASE end where memory does, so a load writes within memory or nothing. -/
theorem State.Inv.loadProgram {s : State} (h : s.Inv) (bytes : List Byte) : (s.loadProgram bytes).1.Inv := by
  rcases s.loadProgram_cases bytes with ⟨_, e⟩ | ⟨hlen, e⟩ <;> rw [e]
  · exact h
  · have hfit : Config.programBase + Config.maxRom = Config.memSize := rfl
    exact h.writeBytes (by omega)

/-! ### The state an instruction executes in -/

/-- What an instruction of a step starts from: the invariant, no fault and no wait (40_step.md R65, R66), and a PC that a fetch
within memory has advanced by 2 (R67, R68). `State.advanced_executing` ties it to the step. -/
structure State.Executing (s : State) : Prop where
  inv : s.Inv
  fault_eq_none : s.fault = none
  wait_eq_false : s.wait = false
  two_le_pc : 2 ≤ s.pc.toNat
  pc_le : s.pc.toNat ≤ 0x1000

/-- A fetch within memory leaves room for the advance of PC. -/
theorem State.advanced_executing {s : State} (h : s.Inv) (hf : s.fault = none) (hw : s.wait = false)
    (hpc : s.pc.toNat + 1 < Config.memSize) : s.advanced.Executing := by
  have hsize : Config.memSize = 0x1000 := rfl
  have hadv : s.advanced.pc.toNat = s.pc.toNat + 2 := by
    rw [State.advanced_pc]
    bv_omega
  obtain ⟨-, hslot, hacc, hmem, -⟩ := h
  exact ⟨.of_no_fault hf (by omega) hslot hacc hmem, hf, hw, by omega, by omega⟩

/-- Raising a legal fault takes PC back over the advance. -/
theorem State.Executing.raise_inv {s : State} (h : s.Executing) {k : Fault} (hk : Fault.Legal s k) : (s.raise k).Inv := by
  have hback : (s.pc - 2#16).toNat ≤ 0x10FE := by
    have := h.two_le_pc
    have := h.pc_le
    bv_omega
  exact (h.inv.setPc hback).latch h.wait_eq_false hk

theorem State.Executing.skipIf_inv {s : State} (h : s.Executing) (c : Bool) : (s.skipIf c).Inv := by
  refine h.inv.setPc ?_
  have := h.pc_le
  split <;> bv_omega

/-- A call pushes a PC of at most 0x1000, the bound of a slot, and jumps to an address of 12 bits. -/
theorem State.Executing.pushJump_inv {s : State} (h : s.Executing) (hsp : s.sp.val ≠ 16) (nnn : Addr) :
    (s.pushJump (addrWord nnn)).Inv := by
  obtain ⟨-, hslot, hacc, hmem, -⟩ := h.inv
  refine .of_no_fault h.fault_eq_none ?_ (fun k => ?_) hacc hmem
  · rw [State.pushJump_pc, addrWord_toNat]
    omega
  · rw [State.slot_pushJump _ _ _ (by omega)]
    split
    · exact h.pc_le
    · exact hslot k

/-- A return takes PC from a slot, whose bound is below that of PC. -/
theorem State.Executing.popJump_inv {s : State} (h : s.Executing) : s.popJump.Inv := by
  obtain ⟨-, hslot, hacc, hmem, -⟩ := h.inv
  exact .of_no_fault h.fault_eq_none ((hslot _).trans (by decide)) hslot hacc hmem

theorem State.Executing.beginWait_inv {s : State} (h : s.Executing) (x : Reg) : (s.beginWait x).Inv := by
  obtain ⟨hpc, hslot, hacc, hmem, -⟩ := h.inv
  exact .of_no_fault h.fault_eq_none hpc hslot hacc hmem

theorem State.Inv.drawSprite {s : State} (h : s.Inv) (x y : Reg) (n : Nat) : (s.drawSprite x y n).Inv := by
  unfold State.drawSprite
  rcases (s.showDrawn (s.drawn x y n).1).setCollision_cases (s.drawn x y n).2 with ⟨_, e⟩ | ⟨_, e⟩ <;> rw [e] <;> exact h

/-! ### Instructions, steps and operations -/

/-- An instruction that raises a fault under a condition keeps the invariant when the fault is legal under it and the effect keeps
it otherwise. -/
theorem State.Executing.inv_of_raise_or_next {c : Prop} [Decidable c] {k : Fault} {s u t : State} (hs : s.Executing)
    (h : (if c then .next (s.raise k) else .next u : Host.Outcome State Fault Refusal) = .next t)
    (hk : c → Fault.Legal s k) (hu : ¬ c → u.Inv) : t.Inv := by
  split at h <;> cases h
  · exact hs.raise_inv (hk ‹_›)
  · exact hu ‹_›

/-- An access through I raises a MemoryFault at 4096 or above, or has its effect on addresses that are all valid. -/
theorem State.Executing.throughI_inv {n : Nat} {body : State → State} {s t : State} (hs : s.Executing)
    (h : s.throughI n body = .next t) (hb : n = 0 ∨ s.i.toNat + n ≤ Config.memSize → (body s).Inv) : t.Inv := by
  rcases s.throughI_cases n body with ⟨_, _, e⟩ | ⟨hn, e⟩ <;> rw [e] at h <;> cases h
  · exact hs.raise_inv (Nat.le_max_right s.i.toNat Config.memSize)
  · exact hb hn

/-- An indexed jump goes to 0xFFF + 0xFF at most (44_index_jump_random.md R96): this is where the bound on PC comes from. -/
theorem toNat_addrWord_add_byteWord_le (nnn : Addr) (b : Byte) : (addrWord nnn + byteWord b).toNat ≤ 0x10FE := by
  rw [BitVec.toNat_add, addrWord_toNat, byteWord_toNat]
  omega

/-- Every instruction of a step keeps the invariant. -/
theorem exec_keeps_inv {i : Instr} {s t : State} (hs : s.Executing) (h : exec i s = .next t) : t.Inv := by
  cases i
  case ret => exact hs.inv_of_raise_or_next h id fun _ => hs.popJump_inv
  case jp nnn => cases h; exact hs.inv.setPc (by rw [addrWord_toNat]; omega)
  case call nnn => exact hs.inv_of_raise_or_next h id fun hsp => hs.pushJump_inv hsp nnn
  case seImm | sneImm | seReg | sneReg => cases h; exact hs.skipIf_inv _
  case jpV0 nnn x => cases h; exact hs.inv.setPc (toNat_addrWord_add_byteWord_le nnn _)
  case skp | sknp => exact hs.inv_of_raise_or_next h id fun _ => hs.skipIf_inv _
  case ldVxK x => cases h; exact hs.beginWait_inv x
  case drw x y n => exact hs.throughI_inv h fun _ => hs.inv.drawSprite x y _
  case ldB x => exact hs.throughI_inv h fun hn => hs.inv.writeBytes (hn.resolve_left (by decide))
  case storeRegs x =>
    exact hs.throughI_inv h fun hn =>
      hs.inv.writeBytes (by rw [State.length_regsUpTo]; exact hn.resolve_left (Nat.succ_ne_zero _))
  case loadRegs x => exact hs.throughI_inv h fun _ => hs.inv
  -- Every other instruction writes registers, I, a timer or FB only.
  all_goals (cases h; exact hs.inv)

/-- Every body of a step keeps the invariant. -/
theorem stepBody_keeps_inv {s t : State} (hs : s.Inv) (h : stepBody s = .next t) : t.Inv := by
  rcases stepBody_cases s with ⟨_, _, e⟩ | ⟨_, _, e⟩ | ⟨_, hw, _, e⟩ |
    ⟨w, hf, hw, hpc, _, ⟨i, _, e⟩ | ⟨_, _, e⟩⟩ <;> rw [e] at h
  · cases h; exact hs
  · cases h; exact State.Inv.resolveWait (s := s.quiet) hs
  · cases h; exact hs.latch hw (Nat.le_max_right s.pc.toNat Config.memSize)
  · exact exec_keeps_inv (State.advanced_executing hs hf hw hpc) h
  · cases h; exact (State.advanced_executing hs hf hw hpc).inv

/-- Settles O47: a step's body keeps the invariant, and its end, a tick, a load and a reset do too. -/
theorem everyStepKeepsTheInvariant : Obligations.EveryStepKeepsTheInvariant := by
  intro s t hs h
  rcases step_cases h with ⟨_, _, _, u, _, hu, rfl⟩ | ⟨elapsed, _, _, rfl⟩ | ⟨bytes, _, _, rfl⟩ | ⟨_, _, rfl⟩ |
    ⟨u, _, _, hu, rfl⟩
  · exact (stepBody_keeps_inv hs hu).endStep
  · exact State.Inv.tick (s := s.quiet) hs elapsed
  · exact State.Inv.loadProgram (s := s.quiet) hs bytes
  · exact invariantHoldsAtReset
  · exact (stepBody_keeps_inv hs hu).endFreeStep

/-! ## The registers an instruction writes (10_state.md R18, R19) -/

theorem regsUnchangedExcept_of_v_eq {s t : State} (h : t.v = s.v) (regs : List Reg) : RegsUnchangedExcept regs s t :=
  fun x _ => State.reg_congr h x

theorem State.setReg_regsUnchangedExcept (x : Reg) (b : Byte) (s : State) :
    RegsUnchangedExcept [x] s (s.setReg x b) := by
  intro y hy
  simp_all

theorem State.setRegFlag_regsUnchangedExcept (x : Reg) (b flag : Byte) (s : State) :
    RegsUnchangedExcept [x, Reg.vf] s (s.setRegFlag x b flag) := by
  intro y hy
  simp_all [State.reg_setRegFlag]

/-- A bulk load writes V[0] to V[x] and no register above (47_misc.md R115). -/
theorem State.loadRegsAtI_regsUnchangedExcept (x : Reg) (s : State) :
    RegsUnchangedExcept ((List.range (x.toNat + 1)).map (BitVec.ofNat 4)) s (s.loadRegsAtI x) := by
  intro y hy
  rw [State.reg_loadRegsAtI, if_neg]
  intro hle
  exact hy (List.mem_map.2 ⟨y.toNat, List.mem_range.2 (by omega), by simp⟩)

/-- A draw writes VF when DRAW_XOR_COLLISION, else no register (45_draw.md R99, R100). -/
theorem State.drawSprite_regsUnchangedExcept (x y : Reg) (n : Nat) (s : State) :
    RegsUnchangedExcept (if s.cfg.drawXorCollision then [Reg.vf] else []) s (s.drawSprite x y n) := by
  unfold State.drawSprite
  rcases (s.showDrawn (s.drawn x y n).1).setCollision_cases (s.drawn x y n).2 with ⟨hc, e⟩ | ⟨_, e⟩ <;> rw [e]
  · rw [State.showDrawn_cfg] at hc
    rw [if_pos hc]
    exact State.setReg_regsUnchangedExcept Reg.vf _ (s.showDrawn _)
  · exact regsUnchangedExcept_of_v_eq (s.showDrawn_v _) _

/-- An instruction that raises a fault or has its effect writes the registers its effect does. -/
theorem regsUnchangedExcept_of_raise_or_next {c : Prop} [Decidable c] {k : Fault} {regs : List Reg} {s u t : State}
    (h : (if c then .next (s.raise k) else .next u : Host.Outcome State Fault Refusal) = .next t)
    (hu : RegsUnchangedExcept regs s u) : RegsUnchangedExcept regs s t := by
  split at h <;> cases h
  · exact regsUnchangedExcept_of_v_eq (s.raise_v k) regs
  · exact hu

/-- An access through I writes the registers its effect does. -/
theorem State.throughI_regsUnchangedExcept {n : Nat} {body : State → State} {regs : List Reg} {s t : State}
    (h : s.throughI n body = .next t) (hb : RegsUnchangedExcept regs s (body s)) : RegsUnchangedExcept regs s t := by
  rcases s.throughI_cases n body with ⟨_, _, e⟩ | ⟨_, e⟩ <;> rw [e] at h <;> cases h
  · exact regsUnchangedExcept_of_v_eq (s.raise_v _) regs
  · exact hb

/-- Settles O49: instruction by instruction, along the table of R19. -/
theorem onlyListedRegistersAreWritten : Obligations.OnlyListedRegistersAreWritten := by
  intro i s t h
  cases i
  case ldImm x _ | addImm x _ | ldReg x _ | orReg x _ | andReg x _ | xorReg x _ | rnd x _ | ldVxDT x =>
    cases h; exact s.setReg_regsUnchangedExcept x _
  case addReg x _ | subReg x _ | shrReg x _ | subnReg x _ | shlReg x _ =>
    cases h; exact s.setRegFlag_regsUnchangedExcept x _ _
  case drw x y n => exact State.throughI_regsUnchangedExcept h (s.drawSprite_regsUnchangedExcept x y _)
  case loadRegs x => exact State.throughI_regsUnchangedExcept h (s.loadRegsAtI_regsUnchangedExcept x)
  case ldB | storeRegs => exact State.throughI_regsUnchangedExcept h (regsUnchangedExcept_of_v_eq rfl _)
  case ret | call | skp | sknp => exact regsUnchangedExcept_of_raise_or_next h (regsUnchangedExcept_of_v_eq rfl _)
  -- Every other instruction leaves V alone.
  all_goals (cases h; exact regsUnchangedExcept_of_v_eq rfl _)

end Sys2Proof.Machine

namespace Sys2Proof.Machine

/-! ## The bounds check of an access through I (20_memory.md R42) -/

/-- An access of one byte or more that reaches 4096 takes the MemoryFault of its first invalid address. -/
theorem State.throughI_raises {n : Nat} (body : State → State) {s : State} (hn : n ≠ 0) (h : 4096 < s.i.toNat + n) :
    ∃ t, s.throughI n body = .next t ∧ RaisesTo (.memoryFault (max s.i.toNat 4096)) s t := by
  have hsize : Config.memSize = 4096 := rfl
  rcases s.throughI_cases n body with ⟨_, _, e⟩ | ⟨hfit, _⟩
  · exact ⟨_, e, s.raise_raisesTo _⟩
  · omega

/-- An access within memory has its effect. -/
theorem State.throughI_within {n : Nat} (body : State → State) {s : State} (h : s.i.toNat + n ≤ Config.memSize) :
    s.throughI n body = .next (body s) := by
  rcases s.throughI_cases n body with ⟨_, _, _⟩ | ⟨_, e⟩
  · omega
  · exact e

/-- Settles O31: each of the four instructions is an access through I, of N, 3 or X + 1 bytes. -/
theorem invalidAddressThroughIFaults : Obligations.InvalidAddressThroughIFaults := by
  intro s
  refine ⟨fun x y n hn h => ?drw, fun h x => ?ldB, fun x h => ⟨?storeRegs, ?loadRegs⟩⟩
  case drw => exact State.throughI_raises _ (fun h0 => hn (BitVec.eq_of_toNat_eq h0)) h
  case ldB => exact State.throughI_raises _ (Nat.succ_ne_zero 2) (by omega)
  case storeRegs => exact State.throughI_raises _ (Nat.succ_ne_zero x.toNat) (by omega)
  case loadRegs => exact State.throughI_raises _ (Nat.succ_ne_zero x.toNat) (by omega)

/-! ## The instructions that leave memory alone (20_memory.md R37) -/

@[simp] theorem State.setCollision_mem (c : Bool) (s : State) : (s.setCollision c).mem = s.mem := by
  rcases s.setCollision_cases c with ⟨_, e⟩ | ⟨_, e⟩ <;> rw [e]
  rfl

@[simp] theorem State.drawSprite_mem (x y : Reg) (n : Nat) (s : State) : (s.drawSprite x y n).mem = s.mem := by
  simp [State.drawSprite]

/-- An instruction that raises a fault or has its effect keeps memory when its effect does. -/
theorem mem_of_raise_or_next {c : Prop} [Decidable c] {k : Fault} {s u t : State}
    (h : (if c then .next (s.raise k) else .next u : Host.Outcome State Fault Refusal) = .next t)
    (hu : u.mem = s.mem) : t.mem = s.mem := by
  split at h <;> cases h
  · exact s.raise_mem k
  · exact hu

/-- An access through I keeps memory when its effect does. -/
theorem State.throughI_keeps_mem {n : Nat} {body : State → State} {s t : State} (h : s.throughI n body = .next t)
    (hb : (body s).mem = s.mem) : t.mem = s.mem := by
  rcases s.throughI_cases n body with ⟨_, _, e⟩ | ⟨_, e⟩ <;> rw [e] at h <;> cases h
  · exact s.raise_mem _
  · exact hb

/-- An instruction other than the two stores leaves the memory data as it was. -/
theorem exec_keeps_mem {i : Instr} {s t : State} (hi : writesMemory i = false) (h : exec i s = .next t) :
    t.mem = s.mem := by
  cases i
  case ldB | storeRegs => cases hi
  case ret => exact mem_of_raise_or_next h s.popJump_mem
  case call nnn => exact mem_of_raise_or_next h (s.pushJump_mem _)
  case skp | sknp => exact mem_of_raise_or_next h (s.skipIf_mem _)
  case drw x y n => exact State.throughI_keeps_mem h (s.drawSprite_mem x y _)
  case loadRegs x => exact State.throughI_keeps_mem h (s.loadRegsAtI_mem x)
  -- Every other instruction answers one update of the registers, PC, I, a timer, WAIT or FB.
  all_goals (cases h; rfl)

/-- Settles O50: memory that is the same data reads the same. -/
theorem onlyStoresWriteMemory : Obligations.OnlyStoresWriteMemory := by
  intro i s t hi h a
  rw [exec_keeps_mem hi h]

/-! ## A fetch of stored bytes (20_memory.md R45, R50) -/

/-- After a bulk store the byte at I + y is V[y], for each register up to V[x] (47_misc.md R114). -/
theorem State.read_storeAtI_regsUpTo (s : State) {x y : Reg} (h : y.toNat ≤ x.toNat) :
    (s.storeAtI (s.regsUpTo x)).mem.read (s.i.toNat + y.toNat) = s.reg y := by
  rw [State.storeAtI_mem, Memory.read_writeBytes, State.length_regsUpTo, if_pos (by omega), Nat.add_sub_cancel_left,
    State.getD_regsUpTo s x y h]

/-- Settles O53: the fetch reads the two stored bytes, which lie at consecutive addresses. -/
theorem storedBytesAreFetched : Obligations.StoredBytesAreFetched := by
  intro x y z s hz hzx hfit
  have hsize : Config.memSize = 4096 := rfl
  refine ⟨_, State.throughI_within (State.storeAtI (s.regsUpTo x)) (by omega), fun u hmem hpc => ?_⟩
  have hhi : u.mem.read u.pc.toNat = s.reg y := by
    rw [hmem, hpc, s.read_storeAtI_regsUpTo (by omega)]
  have hlo : u.mem.read (u.pc.toNat + 1) = s.reg z := by
    rw [hmem, hpc, Nat.add_assoc, ← hz, s.read_storeAtI_regsUpTo hzx]
  rw [State.fetchWord_ok (by omega), hhi, hlo]
  rfl

/-! ## The canonical form of memory is unique (20_memory.md R36) -/

/-- What the canonical form says of the first cell and of the cells after it. -/
theorem Memory.wfFrom_cons {lo a : Nat} {v : Byte} {m : Memory} :
    Memory.wfFrom lo ((a, v) :: m) = true ↔
      lo ≤ a ∧ a < Config.memSize ∧ v ≠ resetByte a ∧ m.wfFrom (a + 1) = true := by
  simp [Memory.wfFrom, and_assoc]

/-- The first cell gives the byte of its address. -/
@[simp] theorem Memory.read_cons_self (a : Nat) (v : Byte) (m : Memory) : Memory.read ((a, v) :: m) a = v :=
  if_pos rfl

/-- The first cell does not matter to any other address. -/
theorem Memory.read_cons_of_ne {a b : Nat} (h : b ≠ a) (v : Byte) (m : Memory) :
    Memory.read ((a, v) :: m) b = m.read b :=
  if_neg h

/-- Below the addresses it lists, a memory in canonical form reads as after reset. -/
theorem Memory.read_of_lt {lo b : Nat} {m : Memory} (hm : m.wfFrom lo = true) (hb : b < lo) : m.read b = resetByte b := by
  induction m generalizing lo with
  | nil => rfl
  | cons c m ih =>
    obtain ⟨hlo, -, -, hm⟩ := Memory.wfFrom_cons.1 hm
    rw [Memory.read_cons_of_ne (by omega), ih hm (by omega)]

/-- A listed cell shows in its read, since it does not hold the reset byte: a memory that reads the same there, and lists nothing
below `hi`, has `hi` at or below the cell. -/
theorem Memory.le_of_read_eq {lo hi a : Nat} {v : Byte} {m m' : Memory} (hm : Memory.wfFrom lo ((a, v) :: m) = true)
    (hm' : m'.wfFrom hi = true) (h : Memory.read ((a, v) :: m) a = m'.read a) : hi ≤ a := by
  obtain ⟨-, -, hv, -⟩ := Memory.wfFrom_cons.1 hm
  by_contra hlt
  rw [Memory.read_cons_self, Memory.read_of_lt hm' (by omega)] at h
  exact hv h

/-- Memories that read alike and whose first cells have one address have tails that read alike: below and at that address the
tails read as after reset. -/
theorem Memory.tails_read_alike {a : Nat} {v w : Byte} {m₁ m₂ : Memory} (h₁ : m₁.wfFrom (a + 1) = true)
    (h₂ : m₂.wfFrom (a + 1) = true) (h : ∀ b, Memory.read ((a, v) :: m₁) b = Memory.read ((a, w) :: m₂) b) (b : Nat) :
    m₁.read b = m₂.read b := by
  by_cases hb : b = a
  · rw [Memory.read_of_lt h₁ (by omega), Memory.read_of_lt h₂ (by omega)]
  · rw [← Memory.read_cons_of_ne hb v, h, Memory.read_cons_of_ne hb]

/-- Two memories in canonical form from one address that read alike are the same list. -/
theorem Memory.eq_of_wfFrom_of_read_eq {lo : Nat} {m₁ m₂ : Memory} (h₁ : m₁.wfFrom lo = true) (h₂ : m₂.wfFrom lo = true)
    (h : ∀ a, m₁.read a = m₂.read a) : m₁ = m₂ := by
  induction m₁ generalizing lo m₂ with
  | nil =>
    cases m₂ with
    | nil => rfl
    | cons c m₂ =>
      exact absurd (Memory.le_of_read_eq (m' := []) (hi := c.1 + 1) h₂ rfl (h c.1).symm) (Nat.not_succ_le_self c.1)
  | cons c m₁ ih =>
    obtain ⟨a, v⟩ := c
    cases m₂ with
    | nil => exact absurd (Memory.le_of_read_eq (m' := []) (hi := a + 1) h₁ rfl (h a)) (Nat.not_succ_le_self a)
    | cons d m₂ =>
      obtain ⟨b, w⟩ := d
      obtain ⟨-, ha, hv, ht₁⟩ := Memory.wfFrom_cons.1 h₁
      obtain ⟨-, hb, hw, ht₂⟩ := Memory.wfFrom_cons.1 h₂
      have hba : b ≤ a := Memory.le_of_read_eq h₁ (Memory.wfFrom_cons.2 ⟨le_rfl, hb, hw, ht₂⟩) (h a)
      have hab : a ≤ b := Memory.le_of_read_eq h₂ (Memory.wfFrom_cons.2 ⟨le_rfl, ha, hv, ht₁⟩) (h b).symm
      obtain rfl : a = b := le_antisymm hab hba
      have hvw : v = w := by simpa using h a
      rw [hvw, ih ht₁ ht₂ (Memory.tails_read_alike ht₁ ht₂ h)]

/-- Settles O54: the canonical form is that from address 0 upwards. -/
theorem canonicalMemoriesReadingAlikeAreEqual : Obligations.CanonicalMemoriesReadingAlikeAreEqual :=
  fun _ _ => Memory.eq_of_wfFrom_of_read_eq

end Sys2Proof.Machine

namespace Sys2Proof

open Sys2Proof.Machine

/-! ## The families that a sub-opcode splits (30_encoding.md R58) -/

section
variable {w : Word}

theorem decodeWord_eq_decodeZero (hF : fieldF w = 0x0#4) : decodeWord w = decodeZero w := by
  rw [decodeWord, hF]
  rfl

theorem decodeWord_eq_decodeAlu (hF : fieldF w = 0x8#4) : decodeWord w = decodeAlu w := by
  rw [decodeWord, hF]
  rfl

theorem decodeWord_eq_decodeKeys (hF : fieldF w = 0xE#4) : decodeWord w = decodeKeys w := by
  rw [decodeWord, hF]
  rfl

theorem decodeWord_eq_decodeMisc (hF : fieldF w = 0xF#4) : decodeWord w = decodeMisc w := by
  rw [decodeWord, hF]
  rfl

end

/-! ## Decoding the word of an instruction (30_encoding.md R59) -/

/-- A well-formed JP V0, NNN holds NNN's top nibble as its X. -/
theorem Instr.wellFormed_jpV0 {nnn : Addr} {x : Reg} :
    (Instr.jpV0 nnn x).wellFormed = true ↔ x = nnn.extractLsb' 8 4 :=
  beq_iff_eq

/-- Settles O55: by the layout of the row, the decoder finds in the encoded word the family, the sub-opcode and each field. -/
theorem decodeOfEncodeIsTheInstruction : Obligations.DecodeOfEncodeIsTheInstruction := by
  intro i hi
  cases i
  case cls | ret => rfl
  case jp | call | ldI => simp only [encodeWord, decodeWord, fieldF_addr, fieldNNN_addr]
  case jpV0 => simp only [encodeWord, decodeWord, fieldF_addr, fieldNNN_addr, fieldX_addr, Instr.wellFormed_jpV0.1 hi]
  case seImm | sneImm | ldImm | addImm | rnd =>
    simp only [encodeWord, decodeWord, fieldF_byte, fieldX_byte, fieldNN_byte]
  case seReg | sneReg | drw =>
    simp only [encodeWord, decodeWord, fieldF_nibble, fieldX_nibble, fieldY_nibble, fieldN_nibble]
  case ldReg | orReg | andReg | xorReg | addReg | subReg | shrReg | subnReg | shlReg =>
    rw [encodeWord, decodeWord_eq_decodeAlu (fieldF_nibble ..)]
    simp only [decodeAlu, fieldX_nibble, fieldY_nibble, fieldN_nibble]
  case skp | sknp =>
    rw [encodeWord, decodeWord_eq_decodeKeys (fieldF_byte ..)]
    simp only [decodeKeys, fieldX_byte, fieldNN_byte]
  case ldVxDT | ldVxK | ldDTVx | ldSTVx | addI | ldF | ldB | storeRegs | loadRegs =>
    rw [encodeWord, decodeWord_eq_decodeMisc (fieldF_byte ..)]
    simp only [decodeMisc, fieldX_byte, fieldNN_byte]

/-! ## What the decoder answers, said once (30_encoding.md R59, R60) -/

/-- An answer that loses nothing of the word: a well-formed instruction whose encoding is the word, or the unknown opcode of a
word that R60 lists. `decodeWord_faithful` ties it to the decoder. -/
def FaithfulAnswer (w : Word) : Except DecodeError Instr → Prop
  | .ok i => encodeWord i = w ∧ i.wellFormed = true
  | .error e => e = .unknownOpcode w ∧ UnknownWord w

section
variable {w : Word} {f n : Nibble} {nn : Byte}

theorem addr_append_eq (hF : fieldF w = f) : f ++ fieldNNN w = w :=
  hF ▸ word_eq_addr w

theorem byte_append_eq (hF : fieldF w = f) (hNN : fieldNN w = nn) : f ++ fieldX w ++ nn = w :=
  hF ▸ hNN ▸ word_eq_byte w

theorem nibble_append_eq (hF : fieldF w = f) (hN : fieldN w = n) : f ++ fieldX w ++ fieldY w ++ n = w :=
  hF ▸ hN ▸ word_eq_nibble w

end

/-- The field X of a word is the top nibble of its NNN. -/
theorem fieldX_eq_extract_fieldNNN (w : Word) : fieldX w = (fieldNNN w).extractLsb' 8 4 := by
  rw [← fieldX_addr (fieldF w) (fieldNNN w), word_eq_addr]

theorem decodeZero_faithful {w : Word} (hF : fieldF w = 0x0#4) : FaithfulAnswer w (decodeZero w) := by
  unfold decodeZero
  split_ifs with hcls hret
  · exact ⟨hcls.symm, rfl⟩
  · exact ⟨hret.symm, rfl⟩
  · exact ⟨rfl, .inl ⟨hF, hcls, hret⟩⟩

theorem decodeAlu_faithful {w : Word} (hF : fieldF w = 0x8#4) : FaithfulAnswer w (decodeAlu w) := by
  unfold decodeAlu
  split
  case h_10 =>
    have hN : fieldN w ∈ [0x8#4, 0x9#4, 0xA#4, 0xB#4, 0xC#4, 0xD#4, 0xF#4] := by
      simp only [imp_false, List.mem_cons, List.not_mem_nil] at *
      bv_omega
    exact ⟨rfl, .inr (.inl ⟨hF, hN⟩)⟩
  all_goals next hN => exact ⟨nibble_append_eq hF hN, rfl⟩

theorem decodeKeys_faithful {w : Word} (hF : fieldF w = 0xE#4) : FaithfulAnswer w (decodeKeys w) := by
  unfold decodeKeys
  split
  case h_3 => exact ⟨rfl, .inr (.inr (.inl ⟨hF, by simp_all⟩))⟩
  all_goals next hNN => exact ⟨byte_append_eq hF hNN, rfl⟩

theorem decodeMisc_faithful {w : Word} (hF : fieldF w = 0xF#4) : FaithfulAnswer w (decodeMisc w) := by
  unfold decodeMisc
  split
  case h_10 => exact ⟨rfl, .inr (.inr (.inr ⟨hF, by simp_all⟩))⟩
  all_goals next hNN => exact ⟨byte_append_eq hF hNN, rfl⟩

/-- Every answer of the decoder loses nothing of its word. The cases are the family nibbles in order, `h_1` for 0x0 to `h_16`. -/
theorem decodeWord_faithful (w : Word) : FaithfulAnswer w (decodeWord w) := by
  unfold decodeWord
  split
  case h_1 hF => exact decodeZero_faithful hF
  case h_9 hF => exact decodeAlu_faithful hF
  case h_15 hF => exact decodeKeys_faithful hF
  case h_16 =>
    have hF : fieldF w = 0xF#4 := by
      simp only [imp_false] at *
      bv_omega
    exact decodeMisc_faithful hF
  case h_2 hF | h_3 hF | h_11 hF => exact ⟨addr_append_eq hF, rfl⟩
  case h_12 hF => exact ⟨addr_append_eq hF, Instr.wellFormed_jpV0.2 (fieldX_eq_extract_fieldNNN w)⟩
  case h_4 hF | h_5 hF | h_7 hF | h_8 hF | h_13 hF => exact ⟨byte_append_eq hF rfl, rfl⟩
  case h_6 hF | h_10 hF | h_14 hF => exact ⟨nibble_append_eq hF rfl, rfl⟩

/-- Settles O56: the decoder's answer is faithful. -/
theorem encodeOfDecodeIsTheWord : Obligations.EncodeOfDecodeIsTheWord := by
  intro w i h
  have hfaithful := decodeWord_faithful w
  rwa [h] at hfaithful

/-! ## The unknown words (30_encoding.md R60) -/

/-- The decoder rejects every word that R60 lists: outside family 0x0, each branch that answers an instruction has a sub-opcode
that the list excludes. -/
theorem decodeWord_of_unknownWord {w : Word} (h : UnknownWord w) : decodeWord w = .error (.unknownOpcode w) := by
  obtain ⟨hF, hcls, hret⟩ | ⟨hF, hN⟩ | ⟨hF, hNN⟩ | ⟨hF, hNN⟩ := h
  · rw [decodeWord_eq_decodeZero hF, decodeZero, if_neg hcls, if_neg hret]
  · rw [decodeWord_eq_decodeAlu hF, decodeAlu]
    split <;> simp_all
  · rw [decodeWord_eq_decodeKeys hF, decodeKeys]
    split <;> simp_all
  · rw [decodeWord_eq_decodeMisc hF, decodeMisc]
    split <;> simp_all

/-- Settles O57: a rejection is faithful, and each listed word is rejected. -/
theorem unknownWordsAreExactlyTheListed : Obligations.UnknownWordsAreExactlyTheListed := by
  refine fun w => ⟨fun h => ?_, decodeWord_of_unknownWord⟩
  have hfaithful := decodeWord_faithful w
  rw [h] at hfaithful
  exact hfaithful.2

/-! ## The opcode map (30_encoding.md R59, R61) -/

/-- The word of an instruction matches the instruction's row. -/
theorem encodeWord_matches_row (i : Instr) : encodeWord i &&& i.maskMatch.1 = i.maskMatch.2 := by
  open Laws.RowMatch in
  cases i
  case cls | ret => rfl
  case jp | call | ldI | jpV0 => exact mask_addr _ _
  case seImm | sneImm | ldImm | addImm | rnd => exact mask_byte _ _ _
  case seReg | sneReg | drw => exact mask_nibble _ _ _ _
  case ldReg | orReg | andReg | xorReg | addReg | subReg | shrReg | subnReg | shlReg => exact mask_nibble_low _ _ _ _
  all_goals exact mask_byte_low _ _ _

section
variable {w mask value : Word} (h : w &&& mask = value)
include h

/-- A mask that covers the family shows it in the masked word. -/
theorem fieldF_of_masked (hmask : fieldF mask = BitVec.allOnes 4) : fieldF w = fieldF value := by
  rw [← h, fieldF, fieldF, BitVec.extractLsb'_and, ← fieldF, ← fieldF, hmask, BitVec.and_allOnes]

/-- A mask that covers the low nibble shows it in the masked word. -/
theorem fieldN_of_masked (hmask : fieldN mask = BitVec.allOnes 4) : fieldN w = fieldN value := by
  rw [← h, fieldN, fieldN, BitVec.extractLsb'_and, ← fieldN, ← fieldN, hmask, BitVec.and_allOnes]

/-- A mask that covers the low byte shows it in the masked word. -/
theorem fieldNN_of_masked (hmask : fieldNN mask = BitVec.allOnes 8) : fieldNN w = fieldNN value := by
  rw [← h, fieldNN, fieldNN, BitVec.extractLsb'_and, ← fieldNN, ← fieldNN, hmask, BitVec.and_allOnes]

/-- A mask of all bits shows the word. -/
theorem eq_of_masked (hmask : mask = BitVec.allOnes 16) : w = value := by
  rw [← h, hmask, BitVec.and_allOnes]

end

/-- A word that matches an instruction's row decodes to an instruction of that row: the mask covers what the decoder switches
on. -/
theorem decodeWord_of_matches_row {w : Word} {i : Instr} (h : w &&& i.maskMatch.1 = i.maskMatch.2) :
    ∃ j, decodeWord w = .ok j ∧ j.maskMatch = i.maskMatch := by
  cases i <;> simp only [Instr.maskMatch] at h ⊢
  case cls | ret =>
    rw [eq_of_masked h rfl]
    exact ⟨_, rfl, rfl⟩
  case ldReg | orReg | andReg | xorReg | addReg | subReg | shrReg | subnReg | shlReg =>
    rw [decodeWord_eq_decodeAlu (fieldF_of_masked h rfl), decodeAlu, fieldN_of_masked h rfl]
    exact ⟨_, rfl, rfl⟩
  case skp | sknp =>
    rw [decodeWord_eq_decodeKeys (fieldF_of_masked h rfl), decodeKeys, fieldNN_of_masked h rfl]
    exact ⟨_, rfl, rfl⟩
  case ldVxDT | ldVxK | ldDTVx | ldSTVx | addI | ldF | ldB | storeRegs | loadRegs =>
    rw [decodeWord_eq_decodeMisc (fieldF_of_masked h rfl), decodeMisc, fieldNN_of_masked h rfl]
    exact ⟨_, rfl, rfl⟩
  all_goals
    rw [decodeWord, fieldF_of_masked h rfl]
    exact ⟨_, rfl, rfl⟩

/-- Settles O58: a decoded word is its instruction's encoding, which matches the row. -/
theorem decodingFollowsTheOpcodeMap : Obligations.DecodingFollowsTheOpcodeMap := by
  refine ⟨fun _ _ => decodeWord_of_matches_row, fun w i h => ?_⟩
  obtain ⟨rfl, -⟩ := encodeOfDecodeIsTheWord w i h
  exact encodeWord_matches_row i

/-- Settles O59: by evaluation of the decoder on the seventeen words. -/
theorem writtenOutWordsDecode : Obligations.WrittenOutWordsDecode := by
  unfold Obligations.WrittenOutWordsDecode
  decide

end Sys2Proof

namespace Sys2Proof.Machine

/-! ## Every instruction answers a next state (40_step.md R72) -/

/-- An instruction that raises a fault or has its effect answers one of two next states. -/
theorem raise_or_next_answers {c : Prop} [Decidable c] (u v : State) :
    ∃ t, (if c then .next u else .next v : Host.Outcome State Fault Refusal) = .next t := by
  split
  · exact ⟨u, rfl⟩
  · exact ⟨v, rfl⟩

theorem State.throughI_answers (n : Nat) (body : State → State) (s : State) : ∃ t, s.throughI n body = .next t := by
  rcases s.throughI_cases n body with ⟨_, _, e⟩ | ⟨_, e⟩
  · exact ⟨_, e⟩
  · exact ⟨_, e⟩

/-- Settles O41: an access through I and an instruction with a fault condition answer on both sides, every other instruction
answers one update. -/
theorem everyInstructionAnswersANextState : Obligations.EveryInstructionAnswersANextState := by
  intro i s
  cases i
  case drw | ldB | storeRegs | loadRegs => exact State.throughI_answers _ _ s
  case ret | call | skp | sknp => exact raise_or_next_answers _ _
  all_goals exact ⟨_, rfl⟩

/-! ## The instructions that do not read the step's inputs (40_step.md R73) -/

/-- The state with another schedule, and with it other inputs of a step (00_scope.md R6). -/
def State.withCaller (ops : List CallerOp) (s : State) : State := { s with caller := ops }

@[simp] theorem State.withCaller_i (ops : List CallerOp) (s : State) : (s.withCaller ops).i = s.i := rfl

@[simp] theorem State.withCaller_cfg (ops : List CallerOp) (s : State) : (s.withCaller ops).cfg = s.cfg := rfl

/-- An instruction that raises a fault or has its effect does not depend on the schedule when its effect does not. -/
theorem raise_or_next_withCaller {c : Prop} [Decidable c] {k : Fault} {s u v : State} {ops : List CallerOp}
    (hu : v = u.withCaller ops) :
    (if c then .next ((s.withCaller ops).raise k) else .next v : Host.Outcome State Fault Refusal) =
      mapNext (State.withCaller ops) (if c then .next (s.raise k) else .next u) := by
  split
  · rfl
  · exact congrArg _ hu

/-- An access through I does not depend on the schedule when its effect does not. -/
theorem State.throughI_withCaller {n : Nat} {body : State → State} {s : State} {ops : List CallerOp}
    (hb : body (s.withCaller ops) = (body s).withCaller ops) :
    (s.withCaller ops).throughI n body = mapNext (State.withCaller ops) (s.throughI n body) := by
  simp only [State.throughI, State.withCaller_i]
  split
  · rfl
  · exact congrArg _ hb

theorem State.setCollision_withCaller (c : Bool) (s : State) (ops : List CallerOp) :
    (s.withCaller ops).setCollision c = (s.setCollision c).withCaller ops := by
  exact (apply_ite (State.withCaller ops) (s.cfg.drawXorCollision = true) (s.setReg Reg.vf (collisionFlag c)) s).symm

/-- A draw does not depend on the schedule: its pixels and requests do not, and its flag does not. -/
theorem State.drawSprite_withCaller (x y : Reg) (n : Nat) (s : State) (ops : List CallerOp) :
    (s.withCaller ops).drawSprite x y n = (s.drawSprite x y n).withCaller ops :=
  (s.showDrawn (s.drawn x y n).1).setCollision_withCaller (s.drawn x y n).2 ops

/-- Settles O51: of the effects only those of SKP, SKNP and RND read the schedule. -/
theorem otherInstructionsIgnoreInputs : Obligations.OtherInstructionsIgnoreInputs := by
  intro i s ops hi
  change exec i (s.withCaller ops) = mapNext (State.withCaller ops) (exec i s)
  cases i
  case skp | sknp | rnd => cases hi
  case drw x y n => exact State.throughI_withCaller (s.drawSprite_withCaller x y _ ops)
  case ldB | storeRegs | loadRegs => exact State.throughI_withCaller rfl
  case ret | call => exact raise_or_next_withCaller rfl
  -- Every other instruction answers one update, of fields other than the schedule.
  all_goals rfl

/-! ## The body of a step, an equation per case (40_step.md R64 to R71) -/

section
variable {s : State}

theorem stepBody_of_fault {k : Fault} (hf : s.fault = some k) : stepBody s = .next s.quiet := by
  simp [stepBody, hf]

theorem stepBody_of_wait (hf : s.fault = none) (hw : s.wait = true) : stepBody s = .next s.quiet.resolveWait := by
  simp [stepBody, hf, hw]

theorem stepBody_of_fetch_outside (hf : s.fault = none) (hw : s.wait = false) (hpc : Config.memSize ≤ s.pc.toNat + 1) :
    stepBody s = .next (s.latch (.memoryFault (max s.pc.toNat Config.memSize))) := by
  simp [stepBody, hf, hw, State.fetchWord_error hpc]

section
variable (hf : s.fault = none) (hw : s.wait = false) (hpc : s.pc.toNat + 1 < Config.memSize)
include hf hw hpc

theorem stepBody_of_decoded {i : Instr}
    (hd : decodeWord (wordOfBytes (s.mem.read s.pc.toNat) (s.mem.read (s.pc.toNat + 1))) = .ok i) :
    stepBody s = exec i s.advanced := by
  simp [stepBody, hf, hw, State.fetchWord_ok hpc, hd]

theorem stepBody_of_unknown {e : DecodeError}
    (hd : decodeWord (wordOfBytes (s.mem.read s.pc.toNat) (s.mem.read (s.pc.toNat + 1))) = .error e) :
    stepBody s = .next (s.unknown (wordOfBytes (s.mem.read s.pc.toNat) (s.mem.read (s.pc.toNat + 1)))) := by
  simp [stepBody, hf, hw, State.fetchWord_ok hpc, hd]

end

end

/-- Every body of a step answers a next state. -/
theorem stepBody_answers (s : State) : ∃ t, stepBody s = .next t := by
  rcases stepBody_cases s with ⟨_, _, e⟩ | ⟨_, _, e⟩ | ⟨_, _, _, e⟩ | ⟨_, _, _, _, _, ⟨i, _, e⟩ | ⟨_, _, e⟩⟩ <;> rw [e]
  case inr.inr.inr.inl => exact everyInstructionAnswersANextState i s.advanced
  all_goals exact ⟨_, rfl⟩

@[simp] theorem State.resolveWait_caller (s : State) : s.resolveWait.caller = s.caller := by
  rcases s.resolveWait_cases with ⟨_, _, e⟩ | ⟨_, e⟩ <;> rw [e]
  rfl

/-- No body of a step touches the schedule. -/
theorem stepBody_keeps_caller {s t : State} (h : stepBody s = .next t) : t.caller = s.caller := by
  rcases stepBody_cases s with ⟨_, _, e⟩ | ⟨_, _, e⟩ | ⟨_, _, _, e⟩ | ⟨w, _, _, _, _, ⟨i, _, e⟩ | ⟨_, _, e⟩⟩ <;> rw [e] at h
  · cases h; exact s.quiet_caller
  · cases h; simp
  · cases h; exact s.latch_caller _
  · exact (exec_keeps h).1.trans s.advanced_caller
  · cases h; exact s.advanced_caller

/-! ## A step is its body and its end (40_step.md R72, 00_scope.md R8) -/

section
variable {s : State}

theorem step_of_scheduled {keys : Keys} {rand : Byte} {rest : List CallerOp} (hc : s.caller = .step keys rand :: rest) :
    step s = mapNext State.endStep (stepBody s) := by
  simp [step, State.runNext, hc]

theorem step_of_free (hc : s.caller = []) (hf : s.fault = none) : step s = mapNext State.endFreeStep (stepBody s) := by
  simp [step, State.runNext, hc, hf]

theorem step_of_free_of_fault {k : Fault} (hc : s.caller = []) (hf : s.fault = some k) : step s = .fault k := by
  simp [step, State.runNext, hc, hf]

/-- The body leaves the schedule to the end, which drops the step from it. -/
theorem scheduledStep_ends {keys : Keys} {rand : Byte} {rest : List CallerOp} {t : State}
    (hc : s.caller = .step keys rand :: rest) (hb : stepBody s = .next t) :
    ∃ u, step s = .next u ∧ ScheduledStepEnds rest t u := by
  have hends := t.endStep_ends
  rw [stepBody_keeps_caller hb, hc] at hends
  exact ⟨t.endStep, by rw [step_of_scheduled hc, hb]; rfl, hends⟩

theorem freeStep_ends {t : State} (hc : s.caller = []) (hf : s.fault = none) (hb : stepBody s = .next t) :
    ∃ u, step s = .next u ∧ FreeStepEnds t u :=
  ⟨t.endFreeStep, by rw [step_of_free hc hf, hb]; rfl, t.endFreeStep_ends ((stepBody_keeps_caller hb).trans hc)⟩

end

/-- Settles O60: every body answers a next state, and the step ends there. -/
theorem stepIsItsBodyThenItsEnd : Obligations.StepIsItsBodyThenItsEnd := by
  intro s
  obtain ⟨t, hb⟩ := stepBody_answers s
  refine ⟨fun keys rand rest hc => ?scheduled, fun hc hf => ?free⟩
  case scheduled =>
    obtain ⟨u, hu, hends⟩ := scheduledStep_ends hc hb
    exact ⟨t, u, hb, hu, hends⟩
  case free =>
    obtain ⟨u, hu, hends⟩ := freeStep_ends hc hf hb
    exact ⟨t, u, hb, hu, hends⟩

/-! ## Frames: the fields a change may touch, listed -/

theorem Field.same_trans {s t u : State} {f : Field} (h : Field.same s t f) (h' : Field.same t u f) :
    Field.same s u f := by
  cases f
  case v | stack | mem => exact fun a => (h' a).trans (h a)
  case fb => exact fun x y => (h' x y).trans (h x y)
  all_goals exact Eq.trans h' h

/-- Two changes in a row change no field that neither changes. -/
theorem UnchangedExcept.trans {fs gs : List Field} {s t u : State} (h : UnchangedExcept fs s t)
    (h' : UnchangedExcept gs t u) : UnchangedExcept (fs ++ gs) s u := by
  intro f hf
  rw [List.mem_append, not_or] at hf
  exact Field.same_trans (h f hf.1) (h' f hf.2)

theorem UnchangedExcept.mono {fs gs : List Field} {s t : State} (h : UnchangedExcept fs s t) (hsub : fs ⊆ gs) :
    UnchangedExcept gs s t := fun f hf => h f fun hfs => hf (hsub hfs)

/-- A listed field that reads as before can be taken off the list. -/
theorem UnchangedExcept.of_cons {f : Field} {fs : List Field} {s t : State} (h : UnchangedExcept (f :: fs) s t)
    (hf : Field.same s t f) : UnchangedExcept fs s t := by
  intro g hg
  by_cases hgf : g = f
  · exact hgf ▸ hf
  · exact h g (by simp [hgf, hg])

/-! A body's frame, field by field: a field off the list keeps its value by the field lemmas of the update. -/

theorem State.quiet_frame (s : State) : UnchangedExcept [.out] s s.quiet := by
  intro f hf
  cases f <;> simp_all [Field.same, State.reg, State.slot]

theorem State.advanced_frame (s : State) : UnchangedExcept [.pc, .out] s s.advanced := by
  intro f hf
  cases f <;> simp_all [Field.same, State.reg, State.slot]

theorem State.unknown_frame (w : Word) (s : State) : UnchangedExcept [.pc, .out] s (s.unknown w) := by
  intro f hf
  cases f <;> simp_all [Field.same, State.reg, State.slot, State.unknown_eq]

theorem State.latch_frame (k : Fault) (s : State) : UnchangedExcept [.fault, .out] s (s.latch k) := by
  intro f hf
  cases f <;> simp_all [Field.same, State.reg, State.slot]

/-- A free caller's time is that of the state before the body, when the body leaves the timers to it. -/
theorem FreeTimePasses.of_frame {fs : List Field} {s t u : State} (h : FreeTimePasses t u) (hb : UnchangedExcept fs s t)
    (hfs : ∀ f ∈ [Field.acc, .dt, .st, .ix], f ∉ fs) : FreeTimePasses s u := by
  have hacc : t.acc = s.acc := hb .acc (hfs _ (by decide))
  have hdt : t.dt = s.dt := hb .dt (hfs _ (by decide))
  have hst : t.st = s.st := hb .st (hfs _ (by decide))
  have hix : t.ix = s.ix := hb .ix (hfs _ (by decide))
  rw [FreeTimePasses, hacc, hdt, hst, hix] at h
  exact h

/-- The frame of a scheduled step is that of its body and of its end. -/
theorem scheduledStep_frame {fs : List Field} {s t : State} {keys : Keys} {rand : Byte} {rest : List CallerOp}
    (hc : s.caller = .step keys rand :: rest) (hb : stepBody s = .next t) (hbody : UnchangedExcept fs s t) :
    ∃ u, step s = .next u ∧ ScheduledStepEnds rest t u ∧ UnchangedExcept (fs ++ [.out, .caller, .ix]) s u := by
  obtain ⟨u, hu, hends⟩ := scheduledStep_ends hc hb
  have ⟨_, _, _, _, hend⟩ := hends
  exact ⟨u, hu, hends, hbody.trans hend⟩

/-- A free caller's step likewise, with the schedule empty before and after, and the free time ticked. -/
theorem freeStep_frame {fs : List Field} {s t : State} (hc : s.caller = []) (hf : s.fault = none)
    (hb : stepBody s = .next t) (hbody : UnchangedExcept fs s t) (hfs : ∀ f ∈ [Field.acc, .dt, .st, .ix], f ∉ fs) :
    ∃ u, step s = .next u ∧ FreeStepEnds t u ∧ FreeTimePasses s u ∧
      UnchangedExcept (fs ++ [.out, .ix, .acc, .dt, .st]) s u := by
  obtain ⟨u, hu, hends⟩ := freeStep_ends hc hf hb
  have ⟨_, _, htime, hcaller, hend⟩ := hends
  have hframe : UnchangedExcept (.caller :: (fs ++ [.out, .ix, .acc, .dt, .st])) s u :=
    (hbody.trans hend).mono fun f hf => by
      simp only [List.mem_append, List.mem_cons] at hf ⊢
      tauto
  exact ⟨u, hu, hends, htime.of_frame hbody hfs, hframe.of_cons (hcaller.trans hc.symm)⟩

/-! ## The cases of a step, each with its frame -/

/-- Settles O39: the body of a step on a latched fault only begins an output stream. -/
theorem faultStaysLatched : Obligations.FaultStaysLatched := by
  intro s k hf
  refine ⟨fun keys rand rest hc => ?scheduled, fun hc => step_of_free_of_fault hc hf⟩
  case scheduled =>
    obtain ⟨u, hu, ⟨-, hout, hcaller, -, -⟩, hframe⟩ :=
      scheduledStep_frame hc (stepBody_of_fault hf) s.quiet_frame
    exact ⟨u, hu, hout k hf, hcaller, hframe.mono (by decide)⟩

/-- Settles O36: the body latches the fault of the first invalid address, and its end returns it. -/
theorem fetchOutsideMemoryFaults : Obligations.FetchOutsideMemoryFaults := by
  rintro s k hf hw hpc rfl
  have hbody := stepBody_of_fetch_outside hf hw hpc
  refine ⟨fun keys rand rest hc => ?scheduled, fun hc => ?free⟩
  case scheduled =>
    obtain ⟨u, hu, ⟨-, hout, hcaller, -, hend⟩, hframe⟩ := scheduledStep_frame hc hbody (s.latch_frame _)
    exact ⟨u, hu, hend .fault (by decide), hout _ rfl, hcaller, hframe.mono (by decide)⟩
  case free =>
    obtain ⟨u, hu, ⟨-, hout, -, -, hend⟩, htime, hframe⟩ :=
      freeStep_frame hc hf hbody (s.latch_frame _) (by decide)
    exact ⟨u, hu, hend .fault (by decide), hout _ rfl, htime, hframe.mono (by decide)⟩

/-- Settles O37: the decoder rejects the word, so the body advances PC and emits the diagnostic. -/
theorem unknownOpcodeIsANoOpWithDiagnostic : Obligations.UnknownOpcodeIsANoOpWithDiagnostic := by
  rintro s w hf hw hpc rfl hunknown
  have hbody := stepBody_of_unknown hf hw hpc (decodeWord_of_unknownWord hunknown)
  refine ⟨fun keys rand rest hc => ?scheduled, fun hc => ?free⟩
  case scheduled =>
    obtain ⟨u, hu, ⟨hout, -, hcaller, -, hend⟩, hframe⟩ := scheduledStep_frame hc hbody (s.unknown_frame _)
    exact ⟨u, hu, hend .pc (by decide), hout hf, hcaller, hframe.mono (by decide)⟩
  case free =>
    obtain ⟨u, hu, ⟨hout, -, -, -, hend⟩, htime, hframe⟩ :=
      freeStep_frame hc hf hbody (s.unknown_frame _) (by decide)
    exact ⟨u, hu, hend .pc (by decide), hout hf, htime, hframe.mono (by decide)⟩

/-- Settles O35: the body is the instruction, which answers a next state, and the step ends there. -/
theorem stepRunsTheDecodedInstruction : Obligations.StepRunsTheDecodedInstruction := by
  intro s i hf hw hpc hd
  have hbody : stepBody s = exec i s.advanced := stepBody_of_decoded hf hw hpc hd
  obtain ⟨t, ht⟩ := everyInstructionAnswersANextState i s.advanced
  refine ⟨fun keys rand rest hc => ⟨hbody ▸ step_of_scheduled hc, ?scheduled⟩,
    fun hc => ⟨hbody ▸ step_of_free hc hf, ?free⟩, s.advanced_pc, s.advanced_out, s.advanced_frame⟩
  case scheduled =>
    obtain ⟨u, hu, hends⟩ := scheduledStep_ends hc (hbody.trans ht)
    exact ⟨t, u, ht, hu, hends⟩
  case free =>
    obtain ⟨u, hu, hends⟩ := freeStep_ends hc hf (hbody.trans ht)
    exact ⟨t, u, ht, hu, hends⟩

/-! ## The wait for a key (40_step.md R66) -/

theorem State.keys_of_scheduled {s : State} {keys : Keys} {rand : Byte} {rest : List CallerOp}
    (hc : s.caller = .step keys rand :: rest) : s.keys = keys := by
  simp [State.keys, hc]

theorem State.keys_of_free {s : State} (hc : s.caller = []) : s.keys = Config.freeKeys s.ix := by
  simp [State.keys, hc]

/-- The key scan finds the smallest held key. -/
theorem firstHeld_eq_some {keys : Keys} {k : Fin 16} :
    firstHeld keys = some k ↔ keys[k] = true ∧ ∀ j : Fin 16, j < k → keys[j] = false := by
  rw [firstHeld, List.find?_eq_some_iff_getElem]
  simp only [List.getElem_finRange, List.length_finRange]
  constructor
  · rintro ⟨h, i, hi, rfl, hmin⟩
    refine ⟨h, fun j hj => ?_⟩
    simpa using hmin j.val hj
  · rintro ⟨h, hmin⟩
    refine ⟨h, k.val, k.isLt, rfl, fun j hj => ?_⟩
    simpa using hmin ⟨j, by omega⟩ hj

/-- The state a waiting step with first held key `k` leaves to its end. -/
def State.takeKey (k : Fin 16) (s : State) : State :=
  { s.quiet.setReg s.wreg (BitVec.ofNat 8 k.val) with wait := false }

@[simp] theorem State.takeKey_reg (k : Fin 16) (s : State) (x : Reg) :
    (s.takeKey k).reg x = if x = s.wreg then BitVec.ofNat 8 k.val else s.reg x :=
  s.reg_setReg s.wreg x _

theorem State.takeKey_frame (k : Fin 16) (s : State) : UnchangedExcept [.v, .wait, .out] s (s.takeKey k) := by
  intro f hf
  cases f <;> simp_all [Field.same, State.takeKey, State.slot]

section
variable {s : State} (hf : s.fault = none) (hw : s.wait = true)
include hf hw

theorem stepBody_of_held {k : Fin 16} (hk : firstHeld s.keys = some k) : stepBody s = .next (s.takeKey k) := by
  have hk' : firstHeld s.quiet.keys = some k := hk
  rw [stepBody_of_wait hf hw, State.resolveWait, hk']
  rfl

theorem stepBody_of_idle (hk : firstHeld s.keys = none) : stepBody s = .next s.quiet := by
  have hk' : firstHeld s.quiet.keys = none := hk
  rw [stepBody_of_wait hf hw, State.resolveWait, hk']

end

/-- What the key taken leaves to the end of the step stays: V[WREG] is the key, and the wait is over. -/
theorem UnchangedExcept.after_takeKey {fs : List Field} {k : Fin 16} {s u : State}
    (h : UnchangedExcept fs (s.takeKey k) u) (hv : .v ∉ fs) (hwait : .wait ∉ fs) :
    (u.reg s.wreg).toNat = k.val ∧ u.wait = false ∧ RegsUnchangedExcept [s.wreg] s u := by
  have hreg : ∀ x, u.reg x = (s.takeKey k).reg x := h .v hv
  refine ⟨?_, h .wait hwait, fun x hx => ?_⟩
  · rw [hreg, State.takeKey_reg, if_pos rfl, BitVec.toNat_ofNat]
    omega
  · rw [hreg, State.takeKey_reg, if_neg (by simpa using hx)]

/-- Settles O38: the key scan finds the smallest held key, which the body takes, or none, and the body changes nothing. -/
theorem waitingStepTakesFirstHeldKey : Obligations.WaitingStepTakesFirstHeldKey := by
  intro s hf hw
  refine ⟨fun keys rand rest hc => ⟨fun k hk hmin => ?held, fun hnone => ?idle⟩, fun hc => ?free⟩
  case held =>
    have hfirst : firstHeld s.keys = some k := by
      rw [State.keys_of_scheduled hc]
      exact firstHeld_eq_some.2 ⟨hk, hmin⟩
    obtain ⟨u, hu, ⟨hout, -, hcaller, -, hend⟩, hframe⟩ :=
      scheduledStep_frame hc (stepBody_of_held hf hw hfirst) (s.takeKey_frame k)
    obtain ⟨hkey, hwait, hregs⟩ := hend.after_takeKey (by decide) (by decide)
    exact ⟨u, hu, hkey, hwait, hout hf, hcaller, hregs, hframe.mono (by decide)⟩
  case idle =>
    have hfirst : firstHeld s.keys = none := by
      rw [State.keys_of_scheduled hc]
      exact firstHeld_eq_none.2 hnone
    obtain ⟨u, hu, ⟨hout, -, hcaller, -, -⟩, hframe⟩ :=
      scheduledStep_frame hc (stepBody_of_idle hf hw hfirst) s.quiet_frame
    exact ⟨u, hu, hout hf, hcaller, hframe.mono (by decide)⟩
  case free =>
    rw [← State.keys_of_free hc]
    cases hfirst : firstHeld s.keys with
    | some k =>
      obtain ⟨u, hu, ⟨hout, -, -, -, hend⟩, htime, hframe⟩ :=
        freeStep_frame hc hf (stepBody_of_held hf hw hfirst) (s.takeKey_frame k) (by decide)
      obtain ⟨hkey, hwait, hregs⟩ := hend.after_takeKey (by decide) (by decide)
      obtain ⟨hk, hmin⟩ := firstHeld_eq_some.1 hfirst
      exact ⟨u, hu, hout hf, htime, .inl ⟨k, hk, hmin, hkey, hwait, hregs, hframe.mono (by decide)⟩⟩
    | none =>
      obtain ⟨u, hu, ⟨hout, -, -, -, -⟩, htime, hframe⟩ :=
        freeStep_frame hc hf (stepBody_of_idle hf hw hfirst) s.quiet_frame (by decide)
      exact ⟨u, hu, hout hf, htime, .inr ⟨firstHeld_eq_none.1 hfirst, hframe.mono (by decide)⟩⟩

end Sys2Proof.Machine

namespace Sys2Proof.Machine

/-! ## Frames of the flow instructions' updates (41_flow.md)

A field off the list keeps its value by the field lemmas of the update. -/

section
variable (s : State)

theorem State.clearDisplay_frame : UnchangedExcept [.fb, .out] s s.clearDisplay := by
  intro f hf
  cases f <;> simp_all [Field.same, State.reg, State.slot]

theorem State.setPc_frame (w : Word) : UnchangedExcept [.pc] s (s.setPc w) := by
  intro f hf
  cases f <;> simp_all [Field.same, State.reg, State.slot]

theorem State.skipIf_frame (c : Bool) : UnchangedExcept [.pc] s (s.skipIf c) :=
  s.setPc_frame _

theorem State.pushJump_frame (w : Word) : UnchangedExcept [.stack, .sp, .pc] s (s.pushJump w) := by
  intro f hf
  cases f <;> simp_all [Field.same, State.reg]

theorem State.popJump_frame : UnchangedExcept [.sp, .pc] s s.popJump := by
  intro f hf
  cases f <;> simp_all [Field.same, State.reg, State.slot]

end

/-! ## The stack pointer after a call and a return (10_state.md R23) -/

section
variable {s : State}

/-- With a free slot the sum does not wrap at 17. -/
theorem State.pushJump_sp_val (w : Word) (h : s.sp.val ≠ 16) : (s.pushJump w).sp.val = s.sp.val + 1 := by
  rw [State.pushJump_sp, Fin.val_ofNat, Nat.mod_eq_of_lt (by omega)]

theorem State.popJump_sp_val : s.popJump.sp.val = s.sp.val - 1 := by
  rw [State.popJump_sp, Fin.val_ofNat, Nat.mod_eq_of_lt (by omega)]

/-! ## CALL and RET, an equation per case (41_flow.md R76, R78) -/

theorem exec_ret_of_empty (h : s.sp.val = 0) : exec .ret s = .next (s.raise .stackUnderflow) := if_pos h

theorem exec_ret_of_occupied (h : s.sp.val ≠ 0) : exec .ret s = .next s.popJump := if_neg h

theorem exec_call_of_full {nnn : Addr} (h : s.sp.val = 16) : exec (.call nnn) s = .next (s.raise .stackOverflow) :=
  if_pos h

theorem exec_call_of_free {nnn : Addr} (h : s.sp.val ≠ 16) : exec (.call nnn) s = .next (s.pushJump (addrWord nnn)) :=
  if_neg h

end

/-- Settles O2: a return with an occupied slot is a pop, with an empty stack a raised fault. -/
theorem retPopsTheStackOrUnderflows : Obligations.RetPopsTheStackOrUnderflows := by
  refine ⟨rfl, fun s => ⟨fun hsp => ?pop, fun hsp => ?underflow⟩⟩
  case pop =>
    have hpop : s.popJump.sp.val + 1 = s.sp.val := by
      rw [State.popJump_sp_val]
      omega
    exact ⟨_, exec_ret_of_occupied hsp, hpop, s.popJump_pc, s.popJump_frame⟩
  case underflow => exact ⟨_, exec_ret_of_empty hsp, s.raise_raisesTo _⟩

/-- Settles O4: a call with a free slot is a push, with a full stack a raised fault. -/
theorem callPushesPcOrOverflows : Obligations.CallPushesPcOrOverflows := by
  refine fun nnn => ⟨decodeOfEncodeIsTheInstruction (.call nnn) rfl, fun s => ⟨fun hsp => ?push, fun hsp => ?overflow⟩⟩
  case push =>
    have hslot (k : Nat) := s.slot_pushJump (addrWord nnn) k (by omega)
    exact ⟨_, exec_call_of_free hsp, (hslot _).trans (if_pos rfl), fun k hk => (hslot k).trans (if_neg hk),
      State.pushJump_sp_val _ hsp, addrWord_toNat nnn, s.pushJump_frame _⟩
  case overflow => exact ⟨_, exec_call_of_full hsp, s.raise_raisesTo _⟩

/-- Settles O52: the return pops the slot that the call pushed, one below the call's stack pointer. -/
theorem callThenReturnRestoresPc : Obligations.CallThenReturnRestoresPc := by
  intro s nnn hsp
  obtain ⟨t, hcall, htop, -, htsp, -, -⟩ := (callPushesPcOrOverflows nnn).2 s |>.1 hsp
  refine ⟨t, hcall, fun u husp hslots => ?_⟩
  have hu : u.sp.val = s.sp.val + 1 := husp ▸ htsp
  obtain ⟨w, hret, hwsp, hwpc, -⟩ := (retPopsTheStackOrUnderflows.2 u).1 (by omega)
  refine ⟨w, hret, ?pc, Fin.ext (by omega)⟩
  case pc =>
    calc w.pc = u.slot s.sp.val := by rw [hwpc, hu, Nat.add_sub_cancel]
      _ = t.slot s.sp.val := hslots _ (by omega)
      _ = s.pc := htop

/-- Settles O1: CLS blanks FB and emits the request, and no more. -/
theorem clsClearsTheDisplay : Obligations.ClsClearsTheDisplay :=
  ⟨rfl, fun s => ⟨s.clearDisplay, rfl, FrameBuffer.pixel_blank, s.clearDisplay_out, s.clearDisplay_frame⟩⟩

/-- Settles O3: a jump is one write of PC, whose 12-bit address keeps its value in 16 bits. -/
theorem jpSetsPc : Obligations.JpSetsPc := fun nnn =>
  ⟨decodeOfEncodeIsTheInstruction (.jp nnn) rfl,
    fun s => ⟨s.setPc (addrWord nnn), rfl, addrWord_toNat nnn, s.setPc_frame _⟩⟩

/-! ## The skips (40_step.md R69, 41_flow.md R79 to R82) -/

/-- An instruction that is a skip under a test advances PC exactly when the condition tested holds, and changes nothing else. -/
theorem exec_skip_advancesPc {i : Instr} {s : State} {test : Bool} {cond : Prop} [Decidable cond]
    (hexec : exec i s = .next (s.skipIf test)) (htest : test = true ↔ cond) :
    ∃ t, exec i s = .next t ∧ t.pc = (if cond then s.pc + 2#16 else s.pc) ∧ UnchangedExcept [.pc] s t :=
  ⟨_, hexec, (s.skipIf_pc test).trans (if_congr htest rfl rfl), s.skipIf_frame test⟩

/-- Settles O5: SE tests V[X] = NN, SNE the contrary. -/
theorem immediateSkipsAdvancePc : Obligations.ImmediateSkipsAdvancePc := fun x nn =>
  ⟨decodeOfEncodeIsTheInstruction (.seImm x nn) rfl, decodeOfEncodeIsTheInstruction (.sneImm x nn) rfl,
    fun _ => ⟨exec_skip_advancesPc rfl beq_iff_eq, exec_skip_advancesPc rfl bne_iff_ne⟩⟩

/-- Settles O6: SE tests V[X] = V[Y], SNE the contrary, and neither reads the ignored nibble. -/
theorem registerSkipsAdvancePc : Obligations.RegisterSkipsAdvancePc := fun x y ignored =>
  ⟨decodeOfEncodeIsTheInstruction (.seReg x y ignored) rfl, decodeOfEncodeIsTheInstruction (.sneReg x y ignored) rfl,
    fun _ => ⟨exec_skip_advancesPc rfl beq_iff_eq, exec_skip_advancesPc rfl bne_iff_ne⟩⟩

end Sys2Proof.Machine

namespace Sys2Proof.Machine

/-! ## The instructions that write one register (42_immediate.md) -/

theorem State.setReg_frame (x : Reg) (b : Byte) (s : State) : UnchangedExcept [.v] s (s.setReg x b) := by
  intro f hf
  cases f <;> simp_all [Field.same, State.slot]

theorem State.reg_setReg_self (x : Reg) (b : Byte) (s : State) : (s.setReg x b).reg x = b := by
  rw [State.reg_setReg, if_pos rfl]

/-- An instruction whose whole effect is to write `b` to V[x] leaves V[x] = `b`, and every other register and field as before. -/
theorem exec_setReg_writes {i : Instr} {x : Reg} {b : Byte} {s : State} (hexec : exec i s = .next (s.setReg x b)) :
    ∃ t, exec i s = .next t ∧ t.reg x = b ∧ RegsUnchangedExcept [x] s t ∧ UnchangedExcept [.v] s t :=
  ⟨_, hexec, s.reg_setReg_self x b, s.setReg_regsUnchangedExcept x b, s.setReg_frame x b⟩

/-- Settles O7: a load is one write of V[X], of the immediate. -/
theorem ldImmediateLoadsNN : Obligations.LdImmediateLoadsNN := fun x nn =>
  ⟨decodeOfEncodeIsTheInstruction (.ldImm x nn) rfl, fun _ => exec_setReg_writes rfl⟩

/-- Settles O8: an add is one write of V[X], of the byte sum, which is the sum modulo 256; so VF is written only as V[X]. -/
theorem addImmediateWrapsWithoutFlag : Obligations.AddImmediateWrapsWithoutFlag := by
  refine fun x nn => ⟨decodeOfEncodeIsTheInstruction (.addImm x nn) rfl, fun s => ?sum⟩
  case sum =>
    have hwrite : exec (.addImm x nn) s = .next (s.setReg x (s.reg x + nn)) := rfl
    obtain ⟨t, hexec, hx, hframe⟩ := exec_setReg_writes hwrite
    exact ⟨t, hexec, by rw [hx, BitVec.toNat_add], hframe⟩

end Sys2Proof.Machine

namespace Sys2Proof.Machine

/-! ## The ALU instructions that leave VF (43_alu.md R86 to R89) -/

/-- Settles O9: each is one write of V[X]; so VF is written only as V[X]. -/
theorem moveAndLogicWriteVxOnly : Obligations.MoveAndLogicWriteVxOnly := fun x y =>
  ⟨decodeOfEncodeIsTheInstruction (.ldReg x y) rfl, decodeOfEncodeIsTheInstruction (.orReg x y) rfl,
    decodeOfEncodeIsTheInstruction (.andReg x y) rfl, decodeOfEncodeIsTheInstruction (.xorReg x y) rfl,
    fun _ => ⟨exec_setReg_writes rfl, exec_setReg_writes rfl, exec_setReg_writes rfl, exec_setReg_writes rfl⟩⟩

/-! ## The ALU instructions that write a flag (43_alu.md R85)

V[X] is written first and VF last, so VF reads as the flag whatever X is, and V[X] as the result unless it is VF. -/

section
variable (x : Reg) (b flag : Byte) (s : State)

theorem State.setRegFlag_frame : UnchangedExcept [.v] s (s.setRegFlag x b flag) :=
  (s.setReg_frame x b).trans ((s.setReg x b).setReg_frame Reg.vf flag) |>.mono (by decide)

theorem State.reg_vf_setRegFlag : (s.setRegFlag x b flag).reg Reg.vf = flag := by
  rw [State.reg_setRegFlag, if_pos rfl]

theorem State.reg_setRegFlag_self {x : Reg} (hx : x ≠ Reg.vf) : (s.setRegFlag x b flag).reg x = b := by
  rw [State.reg_setRegFlag, if_neg hx, if_pos rfl]

end

/-! ## The flags and the results as numbers (10_state.md R18, 43_alu.md R90 to R94) -/

theorem flagByte_decide (p : Prop) [Decidable p] : flagByte (decide p) = if p then 1#8 else 0#8 := by
  simp only [flagByte, decide_eq_true_eq]

theorem carryFlag_eq (a b : Byte) : carryFlag a b = if a.toNat + b.toNat > 255 then 1#8 else 0#8 := flagByte_decide _

theorem noBorrowFlag_eq (minuend subtrahend : Byte) :
    noBorrowFlag minuend subtrahend = if minuend.toNat ≥ subtrahend.toNat then 1#8 else 0#8 := flagByte_decide _

theorem shiftedOutLow_toNat (src : Byte) : (shiftedOutLow src).toNat = src.toNat % 2 :=
  (BitVec.toNat_and ..).trans (Nat.and_one_is_mod _)

theorem shiftedOutHigh_toNat (src : Byte) : (shiftedOutHigh src).toNat = src.toNat / 128 :=
  (BitVec.toNat_ushiftRight ..).trans (Nat.shiftRight_eq_div_pow _ 7)

/-- The difference of two bytes modulo 256, with the 256 added before the subtrahend is taken off, as R91 writes it. -/
theorem byte_toNat_sub (a b : Byte) : (a - b).toNat = (a.toNat + 256 - b.toNat) % 256 := by
  have hb := b.isLt
  rw [BitVec.toNat_sub]
  omega

theorem byte_toNat_half (src : Byte) : (src >>> 1).toNat = src.toNat / 2 := by
  rw [BitVec.toNat_ushiftRight, Nat.shiftRight_eq_div_pow, pow_one]

theorem byte_toNat_double (src : Byte) : (src <<< 1).toNat = src.toNat * 2 % 256 := by
  rw [BitVec.toNat_shiftLeft, Nat.shiftLeft_eq, pow_one]

/-! ## What a flag-writing instruction does -/

section
variable {i : Instr} {x : Reg} {s : State}

/-- An instruction whose whole effect is to write the result `b` and then `flag` leaves VF = `flag`, V[x] = `b` if it is not VF,
and every other register and field as before. -/
theorem exec_setRegFlag_writes {b flag : Byte} (hexec : exec i s = .next (s.setRegFlag x b flag)) :
    ∃ t, exec i s = .next t ∧ t.reg Reg.vf = flag ∧ (x ≠ Reg.vf → t.reg x = b) ∧
      RegsUnchangedExcept [x, Reg.vf] s t ∧ UnchangedExcept [.v] s t :=
  ⟨_, hexec, s.reg_vf_setRegFlag x b flag, s.reg_setRegFlag_self b flag,
    s.setRegFlag_regsUnchangedExcept x b flag, s.setRegFlag_frame x b flag⟩

/-- Either order of a subtraction: VF says that no borrow occurred, V[x] holds the difference if it is not VF (R91, R93). -/
theorem exec_subtraction_writes {minuend subtrahend : Byte}
    (hexec : exec i s = .next (s.setRegFlag x (minuend - subtrahend) (noBorrowFlag minuend subtrahend))) :
    ∃ t, exec i s = .next t ∧ t.reg Reg.vf = (if minuend.toNat ≥ subtrahend.toNat then 1#8 else 0#8) ∧
      (x ≠ Reg.vf → (t.reg x).toNat = (minuend.toNat + 256 - subtrahend.toNat) % 256) ∧
      RegsUnchangedExcept [x, Reg.vf] s t ∧ UnchangedExcept [.v] s t := by
  obtain ⟨t, ht, hvf, hx, hframe⟩ := exec_setRegFlag_writes hexec
  exact ⟨t, ht, hvf.trans (noBorrowFlag_eq ..), fun hne => by rw [hx hne, byte_toNat_sub], hframe⟩

end

/-- Settles O10: the byte sum is the sum modulo 256, and the flag its carry. -/
theorem addSetsCarryInVf : Obligations.AddSetsCarryInVf := by
  refine fun x y => ⟨decodeOfEncodeIsTheInstruction (.addReg x y) rfl, fun s => ?sum⟩
  case sum =>
    have hwrite : exec (.addReg x y) s = .next (s.setRegFlag x (s.reg x + s.reg y) (carryFlag (s.reg x) (s.reg y))) := rfl
    obtain ⟨t, hexec, hvf, hx, hframe⟩ := exec_setRegFlag_writes hwrite
    exact ⟨t, hexec, hvf.trans (carryFlag_eq ..), fun hne => by rw [hx hne, BitVec.toNat_add], hframe⟩

/-- Settles O11: SUB and SUBN are the two orders of one subtraction. -/
theorem subtractionsSetNoBorrowInVf : Obligations.SubtractionsSetNoBorrowInVf := fun x y =>
  ⟨decodeOfEncodeIsTheInstruction (.subReg x y) rfl, decodeOfEncodeIsTheInstruction (.subnReg x y) rfl,
    fun _ => ⟨exec_subtraction_writes rfl, exec_subtraction_writes rfl⟩⟩

/-- Settles O12: the source under the switch is the model's, its low bit is the remainder and the shift the quotient by 2. -/
theorem shrHalvesAndSetsVf : Obligations.ShrHalvesAndSetsVf := by
  refine fun x y => ⟨decodeOfEncodeIsTheInstruction (.shrReg x y) rfl, fun s src hsrc => ?half⟩
  case half =>
    obtain rfl : src = s.shiftSource x y := hsrc
    have hwrite : exec (.shrReg x y) s =
        .next (s.setRegFlag x (s.shiftSource x y >>> 1) (shiftedOutLow (s.shiftSource x y))) := rfl
    obtain ⟨t, hexec, hvf, hx, hframe⟩ := exec_setRegFlag_writes hwrite
    exact ⟨t, hexec, by rw [hvf, shiftedOutLow_toNat], fun hne => by rw [hx hne, byte_toNat_half], hframe⟩

/-- Settles O13: the source under the switch is the model's, its high bit is the quotient by 128, the shift the double modulo 256. -/
theorem shlDoublesAndSetsVf : Obligations.ShlDoublesAndSetsVf := by
  refine fun x y => ⟨decodeOfEncodeIsTheInstruction (.shlReg x y) rfl, fun s src hsrc => ?double⟩
  case double =>
    obtain rfl : src = s.shiftSource x y := hsrc
    have hwrite : exec (.shlReg x y) s =
        .next (s.setRegFlag x (s.shiftSource x y <<< 1) (shiftedOutHigh (s.shiftSource x y))) := rfl
    obtain ⟨t, hexec, hvf, hx, hframe⟩ := exec_setRegFlag_writes hwrite
    exact ⟨t, hexec, by rw [hvf, shiftedOutHigh_toNat], fun hne => by rw [hx hne, byte_toNat_double], hframe⟩

end Sys2Proof.Machine

namespace Sys2Proof.Machine

/-! ## The index load, the indexed jump and the random byte (44_index_jump_random.md) -/

theorem State.setI_frame (w : Word) (s : State) : UnchangedExcept [.i] s (s.setI w) := by
  intro f hf
  cases f <;> simp_all [Field.same, State.reg, State.slot]

/-- A 12-bit address and a byte have a sum below 65536, so the 16-bit sum does not wrap (R96). -/
theorem toNat_addrWord_add_byteWord (nnn : Addr) (b : Byte) :
    (addrWord nnn + byteWord b).toNat = nnn.toNat + b.toNat := by
  rw [BitVec.toNat_add, addrWord_toNat, byteWord_toNat, Nat.mod_eq_of_lt]
  omega

theorem State.rand_of_scheduled {s : State} {keys : Keys} {rand : Byte} {rest : List CallerOp}
    (hc : s.caller = .step keys rand :: rest) : s.rand = rand := by
  simp [State.rand, hc]

/-- Settles O14: the load is one write of I, whose 12-bit address keeps its value in 16 bits. -/
theorem ldISetsI : Obligations.LdISetsI := fun nnn =>
  ⟨decodeOfEncodeIsTheInstruction (.ldI nnn) rfl,
    fun s => ⟨s.setI (addrWord nnn), rfl, addrWord_toNat nnn, s.setI_frame _⟩⟩

/-- Settles O15: the jump is one write of PC, of a sum that does not wrap, and the base under the switch is the model's. -/
theorem indexedJumpAddsBase : Obligations.IndexedJumpAddsBase := by
  refine fun nnn => ⟨decodeOfEncodeIsTheInstruction (.jpV0 nnn _) (Instr.wellFormed_jpV0.2 rfl), fun x s => ?jump⟩
  case jump =>
    have hpc : (addrWord nnn + byteWord (s.jumpBase x)).toNat = nnn.toNat + (s.jumpBase x).toNat :=
      toNat_addrWord_add_byteWord nnn _
    exact ⟨s.setPc (addrWord nnn + byteWord (s.jumpBase x)), rfl, hpc, s.setPc_frame _⟩

/-- Settles O16: RND is one write of V[X], of the step's random byte under the mask, and a scheduled step's byte is the caller's. -/
theorem rndMasksTheRandomByte : Obligations.RndMasksTheRandomByte := fun x nn =>
  ⟨decodeOfEncodeIsTheInstruction (.rnd x nn) rfl,
    fun _ => ⟨exec_setReg_writes rfl, fun _ _ _ => State.rand_of_scheduled⟩⟩

end Sys2Proof.Machine

namespace Sys2Proof.Machine

/-! ## Where a sprite lies (45_draw.md R98, R101)

The statements say a sprite's pixels by its rows and columns, the laws of drawing by the row and the column on each pixel. -/

theorem State.length_bytesAtI (s : State) (n : Nat) : (s.bytesAtI n).length = n :=
  Memory.length_readBytes ..

theorem State.length_bytesAtI_lt (s : State) (n : Nibble) : (s.bytesAtI n.toNat).length < 16 :=
  (s.length_bytesAtI _).trans_lt n.isLt

theorem State.getD_bytesAtI (s : State) {n k : Nat} (h : k < n) :
    (s.bytesAtI n).getD k 0#8 = s.mem.read (s.i.toNat + k) :=
  Memory.getD_readBytes _ _ _ _ h

/-- The sprite's bit on a pixel that it covers. -/
def State.spriteBit (s : State) (x y : Reg) (px : Fin 64) (py : Fin 32) : Bool :=
  (s.mem.read (s.i.toNat + spriteRow (s.reg y).toNat py)).getLsbD (7 - spriteColumn (s.reg x).toNat px)

section
variable {s : State} {x y : Reg} {n : Nibble} {px : Fin 64} {py : Fin 32}

theorem State.spriteCovers_iff :
    s.spriteCovers x y n.toNat px py ↔ spriteColumn (s.reg x).toNat px < 8 ∧ spriteRow (s.reg y).toNat py < n.toNat := by
  have hn := n.isLt
  constructor
  · rintro ⟨r, c, hr, hc, hpx, hpy⟩
    rw [(spriteColumn_eq_iff _ _ _ hc).2 hpx, (spriteRow_eq_iff _ _ _ (by omega)).2 hpy]
    exact ⟨hc, hr⟩
  · rintro ⟨hcol, hrow⟩
    exact ⟨_, _, hrow, hcol, (spriteColumn_eq_iff _ _ _ hcol).1 rfl, (spriteRow_eq_iff _ _ _ (by omega)).1 rfl⟩

/-- The pixels with a 1 bit are those covered whose bit is 1. -/
theorem State.spriteOn_iff :
    s.spriteOn x y n.toNat px py ↔ s.spriteCovers x y n.toNat px py ∧ s.spriteBit x y px py = true := by
  have hn := n.isLt
  constructor
  · rintro ⟨r, c, hr, hc, hpx, hpy, hbit⟩
    refine ⟨⟨r, c, hr, hc, hpx, hpy⟩, ?_⟩
    rw [State.spriteBit, (spriteColumn_eq_iff _ _ _ hc).2 hpx, (spriteRow_eq_iff _ _ _ (by omega)).2 hpy]
    exact hbit
  · rintro ⟨hcov, hbit⟩
    obtain ⟨hcol, hrow⟩ := State.spriteCovers_iff.1 hcov
    exact ⟨_, _, hrow, hcol, (spriteColumn_eq_iff _ _ _ hcol).1 rfl, (spriteRow_eq_iff _ _ _ (by omega)).1 rfl, hbit⟩

theorem State.not_spriteCovers_zero : ¬ s.spriteCovers x y 0 px py := by
  rintro ⟨_, _, hr, _⟩
  omega

theorem State.not_spriteOn_zero : ¬ s.spriteOn x y 0 px py := by
  rintro ⟨_, _, hr, _⟩
  omega

/-- The sprite lies where it did after a change of other registers than its origin, of the display and of the outputs. -/
theorem State.spriteOn_congr {fs : List Field} {regs : List Reg} {t : State} {n : Nat} (hframe : UnchangedExcept fs s t)
    (hi : .i ∉ fs) (hmem : .mem ∉ fs) (hregs : RegsUnchangedExcept regs s t) (hx : x ∉ regs) (hy : y ∉ regs) :
    t.spriteOn x y n px py ↔ s.spriteOn x y n px py := by
  have hi : t.i = s.i := hframe .i hi
  have hread : ∀ a, t.mem.read a = s.mem.read a := hframe .mem hmem
  simp only [State.spriteOn, hregs x hx, hregs y hy, hi, hread]

/-! ## The pixels a draw leaves, and its collision (R99, R100) -/

theorem State.drawn_pixel_of_covers (h : s.spriteCovers x y n.toNat px py) :
    (s.drawn x y n.toNat).1.pixel px py =
      composed s.cfg.drawXorCollision (s.spriteBit x y px py) (s.fb.pixel px py) := by
  obtain ⟨hcol, hrow⟩ := State.spriteCovers_iff.1 h
  rw [State.drawn, blitRows_pixel _ _ _ _ (s.length_bytesAtI_lt n), State.length_bytesAtI, if_pos ⟨hcol, hrow⟩,
    State.getD_bytesAtI _ hrow]
  rfl

theorem State.drawn_pixel_of_not_covers (h : ¬ s.spriteCovers x y n.toNat px py) :
    (s.drawn x y n.toNat).1.pixel px py = s.fb.pixel px py := by
  rw [State.drawn, blitRows_pixel _ _ _ _ (s.length_bytesAtI_lt n), State.length_bytesAtI,
    if_neg fun hcov => h (State.spriteCovers_iff.2 hcov)]

section
variable (hxor : s.cfg.drawXorCollision = true)
include hxor

/-- Composition by XOR toggles under a 1 bit. -/
theorem State.drawn_pixel_of_spriteOn (h : s.spriteOn x y n.toNat px py) :
    (s.drawn x y n.toNat).1.pixel px py = !s.fb.pixel px py := by
  obtain ⟨hcov, hbit⟩ := State.spriteOn_iff.1 h
  rw [State.drawn_pixel_of_covers hcov, hxor, hbit]
  exact Bool.xor_true _

/-- Composition by XOR keeps a pixel under a 0 bit, and the draw every pixel that it does not cover. -/
theorem State.drawn_pixel_of_not_spriteOn (h : ¬ s.spriteOn x y n.toNat px py) :
    (s.drawn x y n.toNat).1.pixel px py = s.fb.pixel px py := by
  by_cases hcov : s.spriteCovers x y n.toNat px py
  · have hbit : s.spriteBit x y px py = false := Bool.eq_false_iff.2 fun hb => h (State.spriteOn_iff.2 ⟨hcov, hb⟩)
    rw [State.drawn_pixel_of_covers hcov, hxor, hbit]
    exact Bool.xor_false _
  · exact State.drawn_pixel_of_not_covers hcov

theorem State.drawn_collided :
    (s.drawn x y n.toNat).2 = true ↔ ∃ px py, s.spriteOn x y n.toNat px py ∧ s.fb.pixel px py = true := by
  rw [State.drawn, hxor, blitRows_collided _ _ _ (s.length_bytesAtI_lt n), State.length_bytesAtI]
  simp only [Bool.false_eq_true, false_or, State.spriteOn_iff, State.spriteCovers_iff, and_assoc]
  refine exists₂_congr fun px py => and_congr_right fun _ => and_congr_right fun hrow => ?_
  rw [State.getD_bytesAtI _ hrow]
  rfl

end

end

/-! ## A draw as an update of the state (R98, R102, R103) -/

section
variable {s : State} {x y : Reg} {n : Nat}

/-- A draw by XOR shows its pixels, and its collision in VF. -/
theorem State.drawSprite_of_xor (h : s.cfg.drawXorCollision = true) :
    s.drawSprite x y n = (s.showDrawn (s.drawn x y n).1).setReg Reg.vf (collisionFlag (s.drawn x y n).2) :=
  if_pos h

/-- A draw by overwriting shows its pixels, and no more. -/
theorem State.drawSprite_of_overwrite (h : s.cfg.drawXorCollision = false) :
    s.drawSprite x y n = s.showDrawn (s.drawn x y n).1 :=
  if_neg (Bool.eq_false_iff.1 h)

end

theorem State.showDrawn_frame (after : FrameBuffer) (s : State) : UnchangedExcept [.fb, .out] s (s.showDrawn after) := by
  intro f hf
  cases f <;> simp_all [Field.same, State.reg, State.slot]

/-- A draw of no bytes, or of bytes within memory, does not fault. -/
theorem exec_drw_of_valid {x y : Reg} {n : Nibble} {s : State} (h : n = 0#4 ∨ s.i.toNat + n.toNat ≤ 4096) :
    exec (.drw x y n) s = .next (s.drawSprite x y n.toNat) := by
  have hsize : Config.memSize = 4096 := rfl
  rcases s.throughI_cases n.toNat (State.drawSprite x y n.toNat) with ⟨hn, hout, _⟩ | ⟨_, e⟩
  · rcases h with rfl | h
    · exact absurd rfl hn
    · omega
  · exact e

/-- Settles O17: a draw by XOR shows its pixels, writes its collision to VF, and no more. -/
theorem drawXorTogglesAndReportsCollision : Obligations.DrawXorTogglesAndReportsCollision := by
  refine fun x y n => ⟨decodeOfEncodeIsTheInstruction (.drw x y n) rfl, fun s hxor hvalid => ?draw⟩
  case draw =>
    have hexec := exec_drw_of_valid (x := x) (y := y) hvalid
    have hcollided := State.drawn_collided (x := x) (y := y) (n := n) hxor
    rw [State.drawSprite_of_xor hxor] at hexec
    refine ⟨_, hexec, fun _ _ => State.drawn_pixel_of_spriteOn hxor, fun _ _ => State.drawn_pixel_of_not_spriteOn hxor,
      fun hon => ?collision, fun hoff => ?none, (s.showDrawn _).setReg_regsUnchangedExcept Reg.vf _,
      (s.showDrawn_frame _).trans ((s.showDrawn _).setReg_frame Reg.vf _) |>.mono (by decide)⟩
    case collision =>
      rw [State.reg_setReg_self, hcollided.2 hon]
      rfl
    case none =>
      rw [State.reg_setReg_self, Bool.eq_false_iff.2 fun hc => hoff (hcollided.1 hc)]
      rfl

/-- Settles O18: overwriting composes each covered pixel to its bit. -/
theorem drawOverwriteSetsCoveredPixels : Obligations.DrawOverwriteSetsCoveredPixels := by
  intro x y n s hover hvalid
  have hexec := exec_drw_of_valid (x := x) (y := y) hvalid
  rw [State.drawSprite_of_overwrite hover] at hexec
  have hcovered {px py} (h : s.spriteCovers x y n.toNat px py) :
      (s.drawn x y n.toNat).1.pixel px py = s.spriteBit x y px py := by
    rw [State.drawn_pixel_of_covers h, hover]
    rfl
  refine ⟨_, hexec, fun px py hon => ?on, fun px py hcov hoff => ?off, fun _ _ => State.drawn_pixel_of_not_covers,
    s.showDrawn_frame _⟩
  case on =>
    obtain ⟨hcov, hbit⟩ := State.spriteOn_iff.1 hon
    exact (hcovered hcov).trans hbit
  case off => exact (hcovered hcov).trans (Bool.eq_false_iff.2 fun hbit => hoff (State.spriteOn_iff.2 ⟨hcov, hbit⟩))

/-- Settles O19: a sprite of no rows covers no pixel, so neither way of drawing changes one, and none collides. -/
theorem drawOfNoRowsChangesNoPixel : Obligations.DrawOfNoRowsChangesNoPixel := by
  intro x y s
  cases hcfg : s.cfg.drawXorCollision with
  | true =>
    obtain ⟨t, hexec, -, hkept, -, hnone, hregs, hframe⟩ :=
      (drawXorTogglesAndReportsCollision x y 0#4).2 s hcfg (.inl rfl)
    have hvf : t.reg Reg.vf = 0#8 := hnone fun ⟨_, _, hon, _⟩ => State.not_spriteOn_zero hon
    have hfb : Field.same s t .fb := fun px py => hkept px py State.not_spriteOn_zero
    exact ⟨t, hexec, fun _ => ⟨hvf, hregs⟩, nofun, (hframe.mono (by decide)).of_cons hfb⟩
  | false =>
    obtain ⟨t, hexec, -, -, hkept, hframe⟩ := drawOverwriteSetsCoveredPixels x y 0#4 s hcfg (.inl rfl)
    have hfb : Field.same s t .fb := fun px py => hkept px py State.not_spriteCovers_zero
    exact ⟨t, hexec, nofun, fun _ r _ => hframe .v (by decide) r, (hframe.mono (by decide)).of_cons hfb⟩

/-- Settles O20: the sprite lies in the second draw where it did in the first, and under its 1 bits the pixels on are
those that were off. -/
theorem drawingTwiceRestoresTheDisplay : Obligations.DrawingTwiceRestoresTheDisplay := by
  intro x y n s hxor hx hy hfit
  obtain ⟨t, hdraw, htoggled, hkept, -, -, hregs, hframe⟩ :=
    (drawXorTogglesAndReportsCollision x y n).2 s hxor (.inr hfit)
  have hcfg : t.cfg = s.cfg := hframe .cfg (by decide)
  have hi : t.i = s.i := hframe .i (by decide)
  obtain ⟨u, hredraw, htoggled', hkept', hcollision, hnone, -, -⟩ :=
    (drawXorTogglesAndReportsCollision x y n).2 t (hcfg ▸ hxor) (.inr (hi ▸ hfit))
  have hsame (px py) : t.spriteOn x y n.toNat px py ↔ s.spriteOn x y n.toNat px py :=
    State.spriteOn_congr hframe (by decide) (by decide) hregs (by simpa using hx) (by simpa using hy)
  have hcollides : (∃ px py, t.spriteOn x y n.toNat px py ∧ t.fb.pixel px py = true) ↔
      ∃ px py, s.spriteOn x y n.toNat px py ∧ s.fb.pixel px py = false := by
    refine exists₂_congr fun px py => (and_congr_left' (hsame px py)).trans (and_congr_right fun hon => ?_)
    rw [htoggled px py hon, Bool.not_eq_true']
  refine ⟨t, u, hdraw, hredraw, fun px py => ?pixel, fun h => hcollision (hcollides.2 h),
    fun h => hnone fun hc => h (hcollides.1 hc)⟩
  case pixel =>
    by_cases hon : s.spriteOn x y n.toNat px py
    · rw [htoggled' px py ((hsame px py).2 hon), htoggled px py hon, Bool.not_not]
    · rw [hkept' px py fun h => hon ((hsame px py).1 h), hkept px py hon]

/-! ## The requests to the Display Sink (R103) -/

/-- A change from an empty output stream that shows nothing: no output, and FB as before. -/
def State.ShowsNothing (s t : State) : Prop := t.out = [] ∧ t.fb = s.fb

theorem State.ShowsNothing.mirrors {s t : State} (h : s.ShowsNothing t) : mirror t.out s.fb = t.fb := by
  obtain ⟨hout, hfb⟩ := h
  rw [hout, hfb]
  rfl

/-- A raised fault discards the outputs and leaves FB (60_exceptions.md R118). -/
theorem State.raise_showsNothing (k : Fault) (s : State) : s.ShowsNothing (s.raise k) :=
  ⟨s.raise_out k, s.raise_fb k⟩

/-- An instruction that raises a fault or has its effect shows nothing when its effect does. -/
theorem showsNothing_of_raise_or_next {c : Prop} [Decidable c] {k : Fault} {s u t : State}
    (h : (if c then .next (s.raise k) else .next u : Host.Outcome State Fault Refusal) = .next t)
    (hu : s.ShowsNothing u) : s.ShowsNothing t := by
  split at h <;> cases h
  · exact s.raise_showsNothing k
  · exact hu

/-- An access through I mirrors FB when its effect does. -/
theorem State.throughI_mirrors {n : Nat} {body : State → State} {s t : State} (h : s.throughI n body = .next t)
    (hb : mirror (body s).out s.fb = (body s).fb) : mirror t.out s.fb = t.fb := by
  rcases s.throughI_cases n body with ⟨_, _, e⟩ | ⟨_, e⟩ <;> rw [e] at h <;> cases h
  · exact (s.raise_showsNothing _).mirrors
  · exact hb

@[simp] theorem State.setCollision_fb (c : Bool) (s : State) : (s.setCollision c).fb = s.fb := by
  rcases s.setCollision_cases c with ⟨_, e⟩ | ⟨_, e⟩ <;> rw [e]
  rfl

@[simp] theorem State.setCollision_out (c : Bool) (s : State) : (s.setCollision c).out = s.out := by
  rcases s.setCollision_cases c with ⟨_, e⟩ | ⟨_, e⟩ <;> rw [e]
  rfl

theorem State.drawSprite_mirrors (x y : Reg) (n : Nat) {s : State} (h : s.out = []) :
    mirror (s.drawSprite x y n).out s.fb = (s.drawSprite x y n).fb := by
  simp only [State.drawSprite, State.setCollision_out, State.setCollision_fb, State.showDrawn_out, State.showDrawn_fb, h,
    List.nil_append]
  exact mirror_drawRequests ..

theorem State.clearDisplay_mirrors {s : State} (h : s.out = []) : mirror s.clearDisplay.out s.fb = s.clearDisplay.fb := by
  rw [State.clearDisplay_out, h]
  rfl

/-- Settles O21: CLS and DRW mirror FB by their requests, and every other instruction shows nothing. -/
theorem sinkMirrorsFrameBuffer : Obligations.SinkMirrorsFrameBuffer := by
  intro i s t hs h
  cases i
  case cls => cases h; exact State.clearDisplay_mirrors hs
  case drw x y n => exact State.throughI_mirrors h (State.drawSprite_mirrors x y _ hs)
  case ldB | storeRegs | loadRegs => exact State.throughI_mirrors h (State.ShowsNothing.mirrors ⟨hs, rfl⟩)
  case ret | call | skp | sknp => exact (showsNothing_of_raise_or_next h ⟨hs, rfl⟩).mirrors
  -- Every other instruction answers one update of the registers, PC, I, a timer or WAIT.
  all_goals (cases h; exact State.ShowsNothing.mirrors ⟨hs, rfl⟩)

end Sys2Proof.Machine

namespace Sys2Proof.Machine

/-! ## The key tests (46_keys.md R104 to R106) -/

section
variable {s : State}

/-- A key index below 16 reads its own place in the snapshot. -/
theorem State.keyHeld_eq {k : Byte} (hk : k.toNat < 16) : s.keyHeld k = s.keys[k.toNat] := by
  simp [State.keyHeld, hk]

variable {x : Reg}

/-! ### SKP and SKNP, an equation per case -/

theorem exec_skp_of_key (hk : (s.reg x).toNat < 16) : exec (.skp x) s = .next (s.skipIf s.keys[(s.reg x).toNat]) :=
  (if_neg (by omega)).trans (by rw [State.keyHeld_eq hk])

theorem exec_sknp_of_key (hk : (s.reg x).toNat < 16) :
    exec (.sknp x) s = .next (s.skipIf !s.keys[(s.reg x).toNat]) :=
  (if_neg (by omega)).trans (by rw [State.keyHeld_eq hk])

theorem exec_skp_of_no_key (hk : 16 ≤ (s.reg x).toNat) :
    exec (.skp x) s = .next (s.raise (.registerIndexOutOfRange (s.reg x))) :=
  if_pos hk

theorem exec_sknp_of_no_key (hk : 16 ≤ (s.reg x).toNat) :
    exec (.sknp x) s = .next (s.raise (.registerIndexOutOfRange (s.reg x))) :=
  if_pos hk

end

/-- Settles O22: for a key SKP is a skip under its place in the snapshot and SKNP a skip under the contrary; for no key both are
a raised fault. -/
theorem keyTestsSkipOrFault : Obligations.KeyTestsSkipOrFault := by
  refine fun x => ⟨decodeOfEncodeIsTheInstruction (.skp x) rfl, decodeOfEncodeIsTheInstruction (.sknp x) rfl, fun s =>
    ⟨fun hk => ⟨?held, ?notHeld⟩, fun hk => ⟨?skpFault, ?sknpFault⟩, fun _ _ _ => State.keys_of_scheduled⟩⟩
  case held => exact exec_skip_advancesPc (exec_skp_of_key hk) Iff.rfl
  case notHeld =>
    obtain ⟨t, hexec, hpc, hframe⟩ := exec_skip_advancesPc (exec_sknp_of_key hk) Bool.not_iff_not
    exact ⟨t, hexec, hpc.trans (ite_not ..), hframe⟩
  case skpFault => exact ⟨_, exec_skp_of_no_key hk, s.raise_raisesTo _⟩
  case sknpFault => exact ⟨_, exec_sknp_of_no_key hk, s.raise_raisesTo _⟩

end Sys2Proof.Machine

namespace Sys2Proof.Machine

/-! ## Frames of the updates of family 0xF and of a draw (47_misc.md, 45_draw.md)

A field off the list keeps its value by the field lemmas of the update. -/

section
variable (s : State)

theorem State.setDt_frame (b : Byte) : UnchangedExcept [.dt] s (s.setDt b) := by
  intro f hf
  cases f <;> simp_all [Field.same, State.reg, State.slot]

theorem State.setSt_frame (b : Byte) : UnchangedExcept [.st] s (s.setSt b) := by
  intro f hf
  cases f <;> simp_all [Field.same, State.reg, State.slot]

theorem State.beginWait_frame (x : Reg) : UnchangedExcept [.wait, .wreg] s (s.beginWait x) := by
  intro f hf
  cases f <;> simp_all [Field.same, State.reg, State.slot]

theorem State.storeAtI_frame (bs : List Byte) : UnchangedExcept [.mem] s (s.storeAtI bs) := by
  intro f hf
  cases f <;> simp_all [Field.same, State.reg, State.slot]

theorem State.loadRegsAtI_frame (x : Reg) : UnchangedExcept [.v] s (s.loadRegsAtI x) := by
  intro f hf
  cases f <;> simp_all [Field.same, State.slot]

/-- A draw shows its pixels, and writes VF or no register. -/
theorem State.drawSprite_frame (x y : Reg) (n : Nat) : UnchangedExcept [.fb, .out, .v] s (s.drawSprite x y n) := by
  have hshown := s.showDrawn_frame (s.drawn x y n).1
  cases hcfg : s.cfg.drawXorCollision with
  | true =>
    rw [State.drawSprite_of_xor hcfg]
    exact hshown.trans ((s.showDrawn _).setReg_frame Reg.vf _)
  | false =>
    rw [State.drawSprite_of_overwrite hcfg]
    exact hshown.mono (by decide)

end

/-! ## Reads after a store (20_memory.md R46, R48) -/

section
variable {base k a : Nat} {bs : List Byte} (m : Memory)

theorem Memory.read_writeBytes_within (h : k < bs.length) : (m.writeBytes base bs).read (base + k) = bs[k] := by
  rw [Memory.read_writeBytes, if_pos (by omega), Nat.add_sub_cancel_left, List.getD_eq_getElem _ _ h]

theorem Memory.read_writeBytes_outside (h : a < base ∨ base + bs.length ≤ a) :
    (m.writeBytes base bs).read a = m.read a := by
  rw [Memory.read_writeBytes, if_neg (by omega)]

end

/-! ## The timer loads, the key wait and the index (47_misc.md R107 to R112) -/

/-- Settles O23: the load is one write of V[X], of DT. -/
theorem ldVxDtReadsDelayTimer : Obligations.LdVxDtReadsDelayTimer := fun x =>
  ⟨decodeOfEncodeIsTheInstruction (.ldVxDT x) rfl, fun _ => exec_setReg_writes rfl⟩

/-- Settles O24: the wait begins by one write of WAIT and WREG, which reads no key. -/
theorem ldVxKStartsTheWait : Obligations.LdVxKStartsTheWait := fun x =>
  ⟨decodeOfEncodeIsTheInstruction (.ldVxK x) rfl,
    fun s => ⟨s.beginWait x, rfl, s.beginWait_wait x, s.beginWait_wreg x, s.beginWait_frame x⟩⟩

/-- Settles O25: each is one write of its timer. -/
theorem ldDtAndLdStSetTimers : Obligations.LdDtAndLdStSetTimers := fun x =>
  ⟨decodeOfEncodeIsTheInstruction (.ldDTVx x) rfl, decodeOfEncodeIsTheInstruction (.ldSTVx x) rfl,
    fun s => ⟨⟨s.setDt (s.reg x), rfl, s.setDt_dt _, s.setDt_frame _⟩,
      ⟨s.setSt (s.reg x), rfl, s.setSt_st _, s.setSt_frame _⟩⟩⟩

/-- Settles O26: the add is one write of I, of the 16-bit sum. -/
theorem addIWrapsWithoutFlag : Obligations.AddIWrapsWithoutFlag := by
  refine fun x => ⟨decodeOfEncodeIsTheInstruction (.addI x) rfl, fun s => ?sum⟩
  case sum =>
    have hi : (s.i + byteWord (s.reg x)).toNat = (s.i.toNat + (s.reg x).toNat) % 65536 := by
      rw [BitVec.toNat_add, byteWord_toNat]
    exact ⟨s.setI (s.i + byteWord (s.reg x)), rfl, hi, s.setI_frame _⟩

/-- Settles O27: the load is one write of I, of the glyph's address. -/
theorem ldFPointsAtGlyph : Obligations.LdFPointsAtGlyph := fun x =>
  ⟨decodeOfEncodeIsTheInstruction (.ldF x) rfl,
    fun s => ⟨s.setI (glyphAddress (s.reg x)), rfl, glyphAddress_toNat _, s.setI_frame _⟩⟩

/-! ## The transfers through I (47_misc.md R113 to R115), within memory -/

section
variable {x : Reg} {s : State}

theorem exec_ldB_within (h : s.i.toNat + 2 < 4096) :
    exec (.ldB x) s = .next (s.storeAtI (decimalDigits (s.reg x))) :=
  State.throughI_within _ h

theorem exec_storeRegs_within (h : s.i.toNat + x.toNat < 4096) :
    exec (.storeRegs x) s = .next (s.storeAtI (s.regsUpTo x)) :=
  State.throughI_within _ h

theorem exec_loadRegs_within (h : s.i.toNat + x.toNat < 4096) : exec (.loadRegs x) s = .next (s.loadRegsAtI x) :=
  State.throughI_within _ h

end

theorem byte_toNat_ofNat {n : Nat} (h : n < 256) : (BitVec.ofNat 8 n).toNat = n :=
  (BitVec.toNat_ofNat ..).trans (Nat.mod_eq_of_lt h)

/-- Settles O28: a store reads back where it lies and changes no byte elsewhere, and each of the three digits fits a byte. -/
theorem ldBStoresDecimalDigits : Obligations.LdBStoresDecimalDigits := by
  refine fun x => ⟨decodeOfEncodeIsTheInstruction (.ldB x) rfl, fun s hfit => ?store⟩
  case store =>
    have hbyte := (s.reg x).isLt
    have hdigit (k : Nat) (hk : k < 3) := congrArg BitVec.toNat
      (s.mem.read_writeBytes_within (base := s.i.toNat) (bs := decimalDigits (s.reg x)) hk)
    refine ⟨_, exec_ldB_within hfit, ?hundreds, ?tens, ?ones, fun _ ha => s.mem.read_writeBytes_outside ha,
      s.storeAtI_frame _⟩
    case hundreds => exact (hdigit 0 (by decide)).trans (byte_toNat_ofNat (by omega))
    case tens => exact (hdigit 1 (by decide)).trans (byte_toNat_ofNat (by omega))
    case ones => exact (hdigit 2 (by decide)).trans (byte_toNat_ofNat (by omega))

/-- Settles O29: the store is of X + 1 bytes, and reads back register by register. -/
theorem bulkStoreWritesV0ToVx : Obligations.BulkStoreWritesV0ToVx := by
  refine fun x => ⟨decodeOfEncodeIsTheInstruction (.storeRegs x) rfl, fun s hfit =>
    ⟨_, exec_storeRegs_within hfit, fun y hy => s.read_storeAtI_regsUpTo hy,
      fun a ha => s.mem.read_writeBytes_outside ?outside, s.storeAtI_frame _⟩⟩
  case outside =>
    rw [State.length_regsUpTo]
    omega

/-- Settles O30: the load writes exactly the registers up to V[X]. -/
theorem bulkLoadReadsV0ToVx : Obligations.BulkLoadReadsV0ToVx := fun x =>
  ⟨decodeOfEncodeIsTheInstruction (.loadRegs x) rfl, fun s hfit =>
    ⟨_, exec_loadRegs_within hfit, fun y hy => (s.reg_loadRegsAtI x y).trans (if_pos hy),
      fun y hy => (s.reg_loadRegsAtI x y).trans (if_neg (Nat.not_le_of_lt hy)), s.loadRegsAtI_frame x⟩⟩

end Sys2Proof.Machine

namespace Sys2Proof.Machine

/-! ## What an instruction may change (40_step.md R70, 60_exceptions.md R118) -/

/-- The fields an instruction's effect may change. `exec_raises_or_frame` ties it to `exec`. -/
def fieldsWritten : Instr → List Field
  | .cls => [.fb, .out]
  | .ret => [.sp, .pc]
  | .call _ => [.stack, .sp, .pc]
  | .jp _ | .jpV0 _ _ | .seImm _ _ | .sneImm _ _ | .seReg _ _ _ | .sneReg _ _ _ | .skp _ | .sknp _ => [.pc]
  | .ldImm _ _ | .addImm _ _ | .ldReg _ _ | .orReg _ _ | .andReg _ _ | .xorReg _ _ | .addReg _ _ | .subReg _ _ => [.v]
  | .shrReg _ _ | .subnReg _ _ | .shlReg _ _ | .rnd _ _ | .ldVxDT _ | .loadRegs _ => [.v]
  | .ldI _ | .addI _ | .ldF _ => [.i]
  | .drw _ _ _ => [.fb, .out, .v]
  | .ldVxK _ => [.wait, .wreg]
  | .ldDTVx _ => [.dt]
  | .ldSTVx _ => [.st]
  | .ldB _ | .storeRegs _ => [.mem]

/-- An instruction that raises a fault or has its effect changes, if not by the fault, the fields that its effect does. -/
theorem raises_or_frame_of_raise_or_next {c : Prop} [Decidable c] {k : Fault} {fs : List Field} {s u t : State}
    (h : (if c then .next (s.raise k) else .next u : Host.Outcome State Fault Refusal) = .next t)
    (hu : UnchangedExcept fs s u) : (∃ k, t = s.raise k) ∨ UnchangedExcept fs s t := by
  split at h <;> cases h
  · exact .inl ⟨k, rfl⟩
  · exact .inr hu

/-- An access through I changes, if not by its fault, the fields that its effect does. -/
theorem State.throughI_raises_or_frame {n : Nat} {body : State → State} {fs : List Field} {s t : State}
    (h : s.throughI n body = .next t) (hb : UnchangedExcept fs s (body s)) :
    (∃ k, t = s.raise k) ∨ UnchangedExcept fs s t := by
  rcases s.throughI_cases n body with ⟨_, _, e⟩ | ⟨_, e⟩ <;> rw [e] at h <;> cases h
  · exact .inl ⟨_, rfl⟩
  · exact .inr hb

/-- Every instruction raises a fault, or changes no field but those listed for it. -/
theorem exec_raises_or_frame {i : Instr} {s t : State} (h : exec i s = .next t) :
    (∃ k, t = s.raise k) ∨ UnchangedExcept (fieldsWritten i) s t := by
  cases i
  case ret => exact raises_or_frame_of_raise_or_next h s.popJump_frame
  case call => exact raises_or_frame_of_raise_or_next h (s.pushJump_frame _)
  case skp | sknp => exact raises_or_frame_of_raise_or_next h (s.skipIf_frame _)
  case drw => exact State.throughI_raises_or_frame h (s.drawSprite_frame _ _ _)
  case ldB | storeRegs => exact State.throughI_raises_or_frame h (s.storeAtI_frame _)
  case loadRegs => exact State.throughI_raises_or_frame h (s.loadRegsAtI_frame _)
  -- Every other instruction answers one update, whose frame is the instruction's.
  all_goals (cases h; right)
  case cls => exact s.clearDisplay_frame
  case jp | jpV0 => exact s.setPc_frame _
  case seImm | sneImm | seReg | sneReg => exact s.skipIf_frame _
  case addReg | subReg | shrReg | subnReg | shlReg => exact s.setRegFlag_frame _ _ _
  case ldI | addI | ldF => exact s.setI_frame _
  case ldVxK => exact s.beginWait_frame _
  case ldDTVx => exact s.setDt_frame _
  case ldSTVx => exact s.setSt_frame _
  all_goals exact s.setReg_frame _ _

/-- A field that faults leave alone, and that the instruction's effect does not write, keeps its value. -/
theorem exec_keeps_field {i : Instr} {s t : State} {f : Field} (h : exec i s = .next t) (hf : f ∉ fieldsWritten i)
    (hraise : f ∉ [Field.fault, .pc, .out]) : Field.same s t f := by
  obtain ⟨k, rfl⟩ | hframe := exec_raises_or_frame h
  · obtain ⟨-, -, -, hframe⟩ := s.raise_raisesTo k
    exact hframe f hraise
  · exact hframe f hf

/-- Settles O45: ACC is in no instruction's frame, DT in that of LD DT, Vx only and ST in that of LD ST, Vx only. -/
theorem instructionsDoNotRunTheTimers : Obligations.InstructionsDoNotRunTheTimers := by
  refine fun i s t h => ⟨?acc, fun hi => ?dt, fun hi => ?st⟩
  case acc => exact exec_keeps_field (f := .acc) h (by cases i <;> simp [fieldsWritten]) (by decide)
  case dt =>
    have hdt : .dt ∉ fieldsWritten i := by
      cases i
      case ldDTVx x => exact absurd rfl (hi x)
      all_goals simp [fieldsWritten]
    exact exec_keeps_field (f := .dt) h hdt (by decide)
  case st =>
    have hst : .st ∉ fieldsWritten i := by
      cases i
      case ldSTVx x => exact absurd rfl (hi x)
      all_goals simp [fieldsWritten]
    exact exec_keeps_field (f := .st) h hst (by decide)

/-! ## Faults are precise (60_exceptions.md R118) -/

/-- A fault set by an instruction is one that it raised. -/
theorem exec_eq_raise_of_fault {i : Instr} {s t : State} (h : exec i s = .next t) (hs : s.fault = none)
    (ht : t.fault ≠ none) : ∃ k, t = s.raise k := by
  refine (exec_raises_or_frame h).resolve_right fun hframe => ht ?_
  have hkept : t.fault = s.fault := hframe .fault (by cases i <;> simp [fieldsWritten])
  rw [hkept, hs]

/-- Raising on the advanced state takes the advance back: what is left is the fault latched in the state before the step. -/
theorem State.raise_advanced (k : Fault) (s : State) : s.advanced.raise k = s.latch k := by
  have hpc : s.pc + 2#16 - 2#16 = s.pc := BitVec.add_sub_cancel ..
  simp only [State.raise, State.latch, State.advanced, hpc]

theorem State.resolveWait_fault (s : State) : s.resolveWait.fault = s.fault := by
  rcases s.resolveWait_cases with ⟨_, _, e⟩ | ⟨_, e⟩ <;> rw [e]
  rfl

/-- A body of a step that sets a fault does nothing but latch it: at the fetch, or at an instruction that raises it. -/
theorem stepBody_eq_latch_of_fault {s t : State} (h : stepBody s = .next t) (hs : s.fault = none)
    (ht : t.fault ≠ none) : ∃ k, t = s.latch k := by
  rcases stepBody_cases s with ⟨k, hk, _⟩ | ⟨_, _, e⟩ | ⟨_, _, _, e⟩ | ⟨w, _, _, _, _, ⟨i, _, e⟩ | ⟨_, _, e⟩⟩
  · rw [hs] at hk
    cases hk
  · rw [e] at h
    cases h
    exact absurd (s.quiet.resolveWait_fault.trans hs) ht
  · rw [e] at h
    cases h
    exact ⟨_, rfl⟩
  · obtain ⟨k, rfl⟩ := exec_eq_raise_of_fault (s := s.advanced) (e ▸ h) hs ht
    exact ⟨k, s.raise_advanced k⟩
  · rw [e] at h
    cases h
    exact absurd hs ht

@[simp] theorem State.doLoad_fault (bytes : List Byte) (s : State) : (s.doLoad bytes).fault = s.fault := by
  rcases s.quiet.loadProgram_cases bytes with ⟨_, e⟩ | ⟨_, e⟩ <;> simp [State.doLoad, e]

/-- A machine step sets a fault only by a body that latches it: no other operation of the caller, and no end of a step,
sets one. -/
theorem stepBody_latches_of_step_faults {s t : State} (h : step s = .next t) (hs : s.fault = none)
    (ht : t.fault ≠ none) : ∃ k, stepBody s = .next (s.latch k) := by
  rcases step_cases h with ⟨_, _, _, u, _, hu, rfl⟩ | ⟨_, _, _, rfl⟩ | ⟨bytes, _, _, rfl⟩ | ⟨_, _, rfl⟩ |
    ⟨u, _, _, hu, rfl⟩
  · obtain ⟨k, rfl⟩ := stepBody_eq_latch_of_fault hu hs ht
    exact ⟨k, hu⟩
  · exact absurd hs ht
  · exact absurd ((s.doLoad_fault bytes).trans hs) ht
  · exact absurd rfl ht
  · obtain ⟨k, rfl⟩ := stepBody_eq_latch_of_fault hu hs ht
    exact ⟨k, hu⟩

/-- Settles O40: the body only latches the fault, and the end of the step returns it. -/
theorem faultsArePrecise : Obligations.FaultsArePrecise := by
  intro s t hs hstep ht
  obtain ⟨k, hb⟩ := stepBody_latches_of_step_faults hstep hs ht
  refine ⟨fun keys rand rest hc => ?scheduled, fun hc => ?free⟩
  case scheduled =>
    obtain ⟨u, hu, ⟨-, hout, hcaller, -, hend⟩, hframe⟩ := scheduledStep_frame hc hb (s.latch_frame k)
    cases hstep.symm.trans hu
    exact ⟨⟨k, hend .fault (by decide), hout k rfl⟩, hcaller, hframe.mono (by decide)⟩
  case free =>
    obtain ⟨u, hu, ⟨-, hout, -, -, hend⟩, htime, hframe⟩ := freeStep_frame hc hs hb (s.latch_frame k) (by decide)
    cases hstep.symm.trans hu
    exact ⟨⟨k, hend .fault (by decide), hout k rfl⟩, htime, hframe.mono (by decide)⟩

end Sys2Proof.Machine

namespace Sys2Proof.Machine

/-! ## The operations other than a step (00_scope.md R6) -/

section
variable {s : State} {rest : List CallerOp}

theorem step_of_tick {elapsed : Nat} (hc : s.caller = .tick elapsed :: rest) : step s = .next (s.doTick elapsed) := by
  simp [step, State.runNext, hc]

theorem step_of_load {bytes : List Byte} (hc : s.caller = .loadProgram bytes :: rest) :
    step s = .next (s.doLoad bytes) := by
  simp [step, State.runNext, hc]

theorem step_of_reset (hc : s.caller = .reset :: rest) : step s = .next s.doReset := by
  simp [step, State.runNext, hc]

/-- An operation leaves to the caller the rest of its schedule. -/
theorem State.nextOp_caller_of_cons {op : CallerOp} (hc : s.caller = op :: rest) : s.nextOp.caller = rest := by
  rw [State.nextOp_caller, hc, List.tail_cons]

end

section
variable (s : State)

theorem State.emit_frame (o : Output) : UnchangedExcept [.out] s (s.emit o) := by
  intro f hf
  cases f <;> simp_all [Field.same, State.reg, State.slot]

theorem State.nextOp_frame : UnchangedExcept [.caller, .ix] s s.nextOp := by
  intro f hf
  cases f <;> simp_all [Field.same, State.reg, State.slot]

theorem State.tick_frame (elapsed : Nat) : UnchangedExcept [.acc, .dt, .st] s (s.tick elapsed) := by
  intro f hf
  cases f <;> simp_all [Field.same, State.reg, State.slot]

theorem UnchangedExcept.refl : UnchangedExcept [] s s := by
  intro f _
  cases f <;> simp [Field.same]

/-- An operation that returns a value begins an output stream, has its effect, emits the value and goes on. -/
theorem UnchangedExcept.returning {fs : List Field} {s t : State} (h : UnchangedExcept fs s.quiet t) (o : Output) :
    UnchangedExcept (fs ++ [.out, .caller, .ix]) s (t.emit o).nextOp := by
  refine ((s.quiet_frame.trans h).trans ((t.emit_frame o).trans (t.emit o).nextOp_frame)).mono fun f hf => ?_
  simp only [List.mem_append, List.mem_cons] at hf ⊢
  tauto

end

/-! ## The timer unit (60_exceptions.md R127 to R130) -/

theorem State.beep_eq (s : State) : s.beep = decide (s.st ≠ 0#8) := by
  rw [State.beep, bne, decide_not]
  rfl

/-- Settles O42: the scheduled tick is a tick of the block between the beginning of the output stream and the beep returned. -/
theorem tickCountsDownBothTimers : Obligations.TickCountsDownBothTimers := by
  intro s elapsed rest hc
  exact ⟨_, step_of_tick hc, rfl, countDown_toNat _ _, countDown_toNat _ _,
    congrArg ([Output.tickReturned ·]) (State.beep_eq _), State.nextOp_caller_of_cons (s := s.quiet.tick elapsed) hc,
    (s.quiet.tick_frame elapsed).returning _⟩

/-- One decrement takes 1 from a nonzero timer, and leaves a zero one. -/
theorem countDown_one (t : Byte) :
    (t ≠ 0#8 → (countDown t 1).toNat + 1 = t.toNat) ∧ (t = 0#8 → countDown t 1 = 0#8) := by
  refine ⟨fun ht => ?nonzero, fun ht => if_pos ht⟩
  case nonzero =>
    have hpos : t.toNat ≠ 0 := fun h => ht (BitVec.eq_of_toNat_eq h)
    rw [countDown_toNat]
    omega

/-- Settles O43: the tick takes one decrement, of UNITS_PER_TICK units over UNITS_PER_TICK, and leaves no rest. -/
theorem oneSixtiethDecrementsByOne : Obligations.OneSixtiethDecrementsByOne := by
  intro s rest hc hacc
  have hrest : (s.acc + Config.unitsPerTick) % Config.unitsPerTick = 0 := by
    rw [hacc, Nat.zero_add, Nat.mod_self]
  have hone : (s.acc + Config.unitsPerTick) / Config.unitsPerTick = 1 := by
    rw [hacc, Nat.zero_add, Nat.div_self Config.unitsPerTick_pos]
  have hdt : (s.doTick Config.unitsPerTick).dt = countDown s.dt 1 := congrArg (countDown s.dt) hone
  have hst : (s.doTick Config.unitsPerTick).st = countDown s.st 1 := congrArg (countDown s.st) hone
  refine ⟨_, step_of_tick hc, hrest, ?_⟩
  rw [hdt, hst]
  exact ⟨(countDown_one s.dt).1, (countDown_one s.dt).2, countDown_one s.st⟩

/-- Decrements in two turns are their sum in one. -/
theorem countDown_countDown (t : Byte) (j k : Nat) : countDown (countDown t j) k = countDown t (j + k) := by
  apply BitVec.eq_of_toNat_eq
  rw [countDown_toNat, countDown_toNat, countDown_toNat, Nat.sub_sub]

/-- The boundaries crossed in two turns are those crossed in one: the first turn's rest is carried over. -/
theorem div_add_carried_div (u acc a b : Nat) (hu : 0 < u) :
    (acc + a) / u + ((acc + a) % u + b) / u = (acc + (a + b)) / u := by
  calc (acc + a) / u + ((acc + a) % u + b) / u = (u * ((acc + a) / u) + ((acc + a) % u + b)) / u := by
        rw [Nat.mul_add_div hu]
    _ = (acc + (a + b)) / u := by rw [← Nat.add_assoc, Nat.div_add_mod, Nat.add_assoc]

/-- Settles O44: the rests and the boundaries crossed add up, so the decrements do. -/
theorem ticksAddUp : Obligations.TicksAddUp := by
  intro s a b _
  have hacc : ((s.acc + a) % Config.unitsPerTick + b) % Config.unitsPerTick = (s.acc + (a + b)) % Config.unitsPerTick := by
    rw [Nat.mod_add_mod, Nat.add_assoc]
  have hcrossed := div_add_carried_div Config.unitsPerTick s.acc a b Config.unitsPerTick_pos
  simp only [State.tick, countDown_countDown, hacc, hcrossed]

end Sys2Proof.Machine

namespace Sys2Proof.Machine

/-! ## Program load and reset (70_reset_and_hazards.md R135, R137) -/

/-- The bytes of a program from 0x200 upwards: what a load does when it does not refuse (`State.loadProgram_of_fits`). -/
def State.writeProgram (bytes : List Byte) (s : State) : State := { s with mem := s.mem.writeBytes 0x200 bytes }

theorem State.writeProgram_frame (bytes : List Byte) (s : State) : UnchangedExcept [.mem] s (s.writeProgram bytes) := by
  intro f hf
  cases f <;> simp_all [Field.same, State.writeProgram, State.reg, State.slot]

section
variable {s : State} {bytes : List Byte}

theorem State.loadProgram_of_fits (h : bytes.length ≤ 3584) : s.loadProgram bytes = (s.writeProgram bytes, .ok) :=
  if_neg (Nat.not_lt_of_le h)

theorem State.loadProgram_of_too_long (h : 3584 < bytes.length) : s.loadProgram bytes = (s, .loadError) :=
  if_pos h

end

/-- Settles O34: a program that fits is one store at 0x200, and one that does not is no change. -/
theorem loadProgramCopiesOrRefuses : Obligations.LoadProgramCopiesOrRefuses := by
  intro s bytes rest hc
  have hstep := step_of_load hc
  refine ⟨fun hlen => ?copies, fun hlen => ?refuses⟩
  case copies =>
    rw [State.doLoad, State.loadProgram_of_fits hlen] at hstep
    exact ⟨_, hstep, rfl, State.nextOp_caller_of_cons hc, fun _ => s.mem.read_writeBytes_within,
      fun _ => s.mem.read_writeBytes_outside, (s.quiet.writeProgram_frame bytes).returning _⟩
  case refuses =>
    rw [State.doLoad, State.loadProgram_of_too_long hlen] at hstep
    exact ⟨_, hstep, rfl, State.nextOp_caller_of_cons hc, (UnchangedExcept.refl s.quiet).returning _⟩

theorem State.resetBlock_frame (s : State) : UnchangedExcept [.cfg, .caller, .ix] State.reset s.resetBlock := by
  intro f hf
  cases f <;> simp_all [Field.same, State.reg, State.slot]

/-- Settles O33: a reset is the reset of the block, and the caller goes on. -/
theorem resetOperationRestoresResetState : Obligations.ResetOperationRestoresResetState := by
  intro s rest hc
  exact ⟨_, step_of_reset hc, s.doReset_cfg, State.nextOp_caller_of_cons (s := s.resetBlock) hc,
    (s.resetBlock_frame.trans s.resetBlock.nextOp_frame).mono (by decide)⟩

end Sys2Proof.Machine
